-- ==== Sys2Proof/Word.lean ====
section
/-! DEFINITION. The widths the block works with (spec/00_scope.md R7, R8): bytes, CSR words, device addresses, ticks. -/

namespace Sys2Proof

/-- A sensor register number, a bank value, an immediate or one transferred byte: 8 bits (R7). -/
abbrev Byte := BitVec 8

/-- A CSR, a command word, an argument or a result register: 32 bits (R7). -/
abbrev Word := BitVec 32

/-- A 7-bit bus device address (R7). -/
abbrev DevAddr := BitVec 7

/-- A value of the tick input or of DEADLINE: 64 bits, in milliseconds (R6 `P_TICK_W`). -/
abbrev Tick := BitVec 64

/-- A byte as a CSR word, the high bits zero (`zext_32` of R8). -/
def zext (b : Byte) : Word := b.setWidth 32

/-- A natural number written to a 32-bit register; every rule checks `v < 2^32` before it writes (R9, R11). -/
def word (v : Nat) : Word := BitVec.ofNat 32 v

end Sys2Proof
end

