-- ==== Sys2Proof/Syntax.lean ====
section
/-! DEFINITION. The commands of the block: one constructor per row of spec/opcode_table.json (30_encoding.md R94), with the
command-word operands each one uses (R95). Operands in ARG registers belong to the state (R96). -/

namespace Sys2Proof

/-- The 29 commands. `reg` is the word's REG field, `imm`, `mask` or `addr` its IMM field (30_encoding.md R90, R95). -/
inductive Instr where
  | decTimeout
  | encTimeout
  | macroPeriod
  | mclkToUs
  | usToMclk
  | seqDecode
  | vcselDec
  | vcselEncPre
  | vcselEncFinal
  | stepTimeouts
  | budgetGet
  | budgetSet
  | srlEnc
  | srlDec
  | guardArm
  | guardCheck
  | timeoutOccurred
  | rd8 (reg : Byte)
  | rd8Cap (reg : Byte)
  | rd16 (reg : Byte)
  | rd32 (reg : Byte)
  | wr8 (reg imm : Byte)
  | wr8Sv (reg : Byte)
  | wr16 (reg : Byte)
  | wr32 (reg : Byte)
  | pollNz (reg mask : Byte)
  | pollZ (reg mask : Byte)
  | seqRun
  | setAddr (reg addr : Byte)
deriving DecidableEq, Repr

end Sys2Proof
end

