-- ==== Sys2Proof/WellFormed.lean ====
section
/-! DEFINITION. Which commands are well formed: the register constraints of spec/30_encoding.md R97, so that no access passes
register 0xFF and only 1-byte writes reach it (20_memory.md R68). -/

namespace Sys2Proof

/-- R97's table of legal REG values. -/
def Instr.wf : Instr → Bool
  | .decTimeout | .encTimeout | .macroPeriod | .mclkToUs | .usToMclk => true
  | .seqDecode | .vcselDec | .vcselEncPre | .vcselEncFinal => true
  | .stepTimeouts | .budgetGet | .budgetSet | .srlEnc | .srlDec => true
  | .guardArm | .guardCheck | .timeoutOccurred | .seqRun => true
  | .rd8 _ | .rd8Cap _ | .wr8 _ _ | .wr8Sv _ | .pollNz _ _ | .pollZ _ _ => true
  | .rd16 reg => decide (reg.toNat ≤ 0xFE)
  | .rd32 reg => decide (reg.toNat ≤ 0xFC)
  | .wr16 reg => decide (reg.toNat ≤ 0xFD)
  | .wr32 reg => decide (reg.toNat ≤ 0xFB)
  | .setAddr reg _ => decide (reg.toNat ≤ 0xFE)

end Sys2Proof
end

