-- ==== Sys2Proof/Decode.lean ====
section
/-! DEFINITION. Decoding a command word (spec/30_encoding.md R90 to R98), total and refusing by the name of the first check of
R92 that fails; and the encoder written from the same tables. -/

namespace Sys2Proof

/-- Why a command word is ILLEGAL: the checks 1 to 4 of R92, in their order. Check 5 (WR8.SV's STOP_VALID) depends on the state
and belongs to that command's meaning. -/
inductive Illegal where
  /-- Check 1: OPC is reserved (R94). -/
  | reservedOpcode
  /-- Check 2: RSV is not 0 (R90). -/
  | reservedBits
  /-- Check 3: a field the command does not use is not 0 (R95). -/
  | unusedField
  /-- Check 4: REG is outside the command's range (R97). -/
  | registerRange
deriving DecidableEq, Repr

/-- OPC, bits [7:0] (R90). -/
def opcField (w : Word) : Byte := w.extractLsb' 0 8
/-- REG, bits [15:8] (R90). -/
def regField (w : Word) : Byte := w.extractLsb' 8 8
/-- IMM, bits [23:16] (R90). -/
def immField (w : Word) : Byte := w.extractLsb' 16 8
/-- F, bit [24] (R90). -/
def formField (w : Word) : Bool := w.getLsbD 24
/-- RSV, bits [31:25] (R90). -/
def rsvField (w : Word) : BitVec 7 := w.extractLsb' 25 7

/-- The opcodes R94 defines; every other value of OPC is reserved. -/
def opcodes : List Nat :=
  [0x01, 0x02, 0x03, 0x04, 0x05, 0x08, 0x09, 0x0A, 0x0B, 0x0C, 0x0D, 0x0E, 0x0F, 0x10, 0x11, 0x12,
   0x20, 0x21, 0x22, 0x24, 0x25, 0x26, 0x28, 0x29, 0x2A]

/-- What an opcode and a form flag name (R91, R94, R95): the command, whether it uses REG, and whether it uses IMM. `none` where
the flag is set in a command that does not use it. -/
def commandOf (opc : Nat) (f : Bool) (reg imm : Byte) : Option (Instr × Bool × Bool) :=
  match opc, f with
  | 0x01, false => some (.decTimeout, false, false)
  | 0x02, false => some (.encTimeout, false, false)
  | 0x03, false => some (.macroPeriod, false, false)
  | 0x04, false => some (.mclkToUs, false, false)
  | 0x05, false => some (.usToMclk, false, false)
  | 0x08, false => some (.seqDecode, false, false)
  | 0x09, false => some (.vcselDec, false, false)
  | 0x0A, false => some (.vcselEncPre, false, false)
  | 0x0A, true  => some (.vcselEncFinal, false, false)
  | 0x0B, false => some (.stepTimeouts, false, false)
  | 0x0C, false => some (.budgetGet, false, false)
  | 0x0D, false => some (.budgetSet, false, false)
  | 0x0E, false => some (.srlEnc, false, false)
  | 0x0F, false => some (.srlDec, false, false)
  | 0x10, false => some (.guardArm, false, false)
  | 0x11, false => some (.guardCheck, false, false)
  | 0x12, false => some (.timeoutOccurred, false, false)
  | 0x20, false => some (.rd8 reg, true, false)
  | 0x20, true  => some (.rd8Cap reg, true, false)
  | 0x21, false => some (.rd16 reg, true, false)
  | 0x22, false => some (.rd32 reg, true, false)
  | 0x24, false => some (.wr8 reg imm, true, true)
  | 0x24, true  => some (.wr8Sv reg, true, false)
  | 0x25, false => some (.wr16 reg, true, false)
  | 0x26, false => some (.wr32 reg, true, false)
  | 0x28, false => some (.pollNz reg imm, true, true)
  | 0x28, true  => some (.pollZ reg imm, true, true)
  | 0x29, false => some (.seqRun, false, false)
  | 0x2A, false => some (.setAddr reg imm, true, true)
  | _, _ => none

/-- R92, checks 1 to 4 in order. -/
def decode (w : Word) : Except Illegal Instr :=
  if !opcodes.contains (opcField w).toNat then .error .reservedOpcode
  else if rsvField w ≠ 0 then .error .reservedBits
  else
    match commandOf (opcField w).toNat (formField w) (regField w) (immField w) with
    | none => .error .unusedField
    | some (i, usesReg, usesImm) =>
      if (!usesReg && regField w != 0) || (!usesImm && immField w != 0) then .error .unusedField
      else if i.wf then .ok i
      else .error .registerRange

/-- A command word from its fields, RSV zero (R90). -/
def pack (opc : Byte) (reg imm : Byte) (f : Bool) : Word :=
  BitVec.ofNat 32 (f.toNat * 2 ^ 24 + imm.toNat * 2 ^ 16 + reg.toNat * 2 ^ 8 + opc.toNat)

/-- The command word of a command (R90, R91, R94, R95): unused fields are 0. -/
def encode : Instr → Word
  | .decTimeout      => pack 0x01 0 0 false
  | .encTimeout      => pack 0x02 0 0 false
  | .macroPeriod     => pack 0x03 0 0 false
  | .mclkToUs        => pack 0x04 0 0 false
  | .usToMclk        => pack 0x05 0 0 false
  | .seqDecode       => pack 0x08 0 0 false
  | .vcselDec        => pack 0x09 0 0 false
  | .vcselEncPre     => pack 0x0A 0 0 false
  | .vcselEncFinal   => pack 0x0A 0 0 true
  | .stepTimeouts    => pack 0x0B 0 0 false
  | .budgetGet       => pack 0x0C 0 0 false
  | .budgetSet       => pack 0x0D 0 0 false
  | .srlEnc          => pack 0x0E 0 0 false
  | .srlDec          => pack 0x0F 0 0 false
  | .guardArm        => pack 0x10 0 0 false
  | .guardCheck      => pack 0x11 0 0 false
  | .timeoutOccurred => pack 0x12 0 0 false
  | .rd8 reg         => pack 0x20 reg 0 false
  | .rd8Cap reg      => pack 0x20 reg 0 true
  | .rd16 reg        => pack 0x21 reg 0 false
  | .rd32 reg        => pack 0x22 reg 0 false
  | .wr8 reg imm     => pack 0x24 reg imm false
  | .wr8Sv reg       => pack 0x24 reg 0 true
  | .wr16 reg        => pack 0x25 reg 0 false
  | .wr32 reg        => pack 0x26 reg 0 false
  | .pollNz reg mask => pack 0x28 reg mask false
  | .pollZ reg mask  => pack 0x28 reg mask true
  | .seqRun          => pack 0x29 0 0 false
  | .setAddr reg a   => pack 0x2A reg a false

/-- The 32-bit command word of a table row's `nbits` bits, every bit above them 0 (the CMD register takes the word whole, R26). -/
def tableWord (nbits w : Nat) : Word := BitVec.ofNat 32 (w % 2 ^ nbits)

/-- What the decoder reads from a table row's word. -/
def decodeTableWord (nbits w : Nat) : Option Instr :=
  match decode (tableWord nbits w) with
  | .ok i => some i
  | .error _ => none

end Sys2Proof
end

