-- ==== Sys2Proof/Config.lean ====
section
/-! DEFINITION. What an instance of the block fixes (spec/00_scope.md R6), what its surroundings may do (spec/10_state.md R20), and
the free values: the opaque constants no proof can look into. -/

namespace Sys2Proof

/-- One host access to the CSR window (10_state.md R20, R25): the byte offset, the size in bytes, and the word written
(`none` for a read). Only an aligned 4-byte access has a meaning (20_memory.md R68). -/
structure Access where
  offset : Nat
  bytes  : Nat
  data   : Option Word
deriving DecidableEq, Repr, Inhabited

/-- The transport's answer to the request in flight (20_memory.md R81). -/
inductive Answer where
  /-- Ok; wire bytes not yet transferred are transferred with it. Byte `k` of `free`, counted from the least significant, is what wire byte
  `k` of a READ is where no register of the sensor gives it: register 0xFF (93_implementation_defined.md U7), and every byte where another
  device answers (log 4). Any value. -/
  | ok (free : Word)
  /-- Fail. Bit `k` of `took` says whether the sensor took wire byte `k` of a failed WRITE all the same, where it was not yet
  transferred: any value (93_implementation_defined.md U2, U6). -/
  | fail (took : BitVec 4)
deriving DecidableEq, Repr, Inhabited

/-- One step of one agent (10_state.md R20): the model performs one event a step. -/
inductive Event where
  /-- The command engine takes its next turn in the running command (nothing happens when it is idle). -/
  | engine
  /-- The host makes one CSR access. -/
  | host (a : Access)
  /-- The transport answers the request in flight (nothing happens when there is none). -/
  | transport (a : Answer)
  /-- Wire byte `k` of the request in flight is transferred by itself, before the answer: a request need not be one indivisible update
  (20_memory.md R70, 93_implementation_defined.md U6). `free` is as a byte of `Answer.ok`'s. Nothing happens where no such byte is left. -/
  | wire (k : Fin 4) (free : Byte)
  /-- The tick input moves on to `t`, never backwards (42_guard.md R180). -/
  | tick (t : Tick)
  /-- The sensor changes its register `(bank, reg)` under its own control (20_memory.md R71); register 0xFF is no physical register. -/
  | sensor (bank reg value : Byte)
  /-- RST is asserted (70_reset_and_hazards.md R280). `took` says which bytes of a WRITE in flight, of those not yet transferred, reached
  the sensor (R282), and `t` is the tick's value then: monotonicity binds only the ticks "since reset" (42_guard.md R180). -/
  | reset (took : BitVec 4) (t : Tick)
deriving DecidableEq, Repr, Inhabited

/-- The bias of the MCLK-to-microsecond rounding, `P_M2U_BIAS` (00_scope.md R6). -/
inductive M2uBias where
  | halfDivisor
  | halfMacro
deriving DecidableEq, Repr

/-- The bit positions of the five sequence-step enables, `P_SEQ_BITS` (00_scope.md R6). -/
structure SeqBits where
  tcc   : Nat
  msrc  : Nat
  dss   : Nat
  pre   : Nat
  final : Nat
deriving DecidableEq, Repr

namespace Config

/-- `P_MACRO_VCLKS`. -/
def macroVclks : Nat := 2304
/-- `P_PLL_PS`. -/
def pllPs : Nat := 1655
/-- `P_M2U_BIAS`: 90_conflicts.md C1 resolves it to HALF_DIVISOR. -/
def m2uBias : M2uBias := .halfDivisor
/-- `P_MIN_BUDGET_US`. -/
def minBudgetUs : Nat := 20000
/-- `P_VCSEL_PRE_SET`. -/
def vcselPreSet : List Nat := [12, 14, 16, 18]
/-- `P_VCSEL_FINAL_SET`. -/
def vcselFinalSet : List Nat := [8, 10, 12, 14]
/-- `P_SRL_MAX` is the exact rational `srlMaxNum / srlMaxDen` = 511.99. -/
def srlMaxNum : Nat := 51199
/-- The denominator of `P_SRL_MAX`. -/
def srlMaxDen : Nat := 100
/-- `P_SEQ_BITS`: 90_conflicts.md C4 keeps the document's mapping. -/
def seqBits : SeqBits := { tcc := 4, msrc := 3, dss := 2, pre := 6, final := 7 }
/-- The reference driver's mapping, the documented alternative of `P_SEQ_BITS` (93_implementation_defined.md G1). -/
def seqBitsReference : SeqBits := { tcc := 4, msrc := 2, dss := 3, pre := 6, final := 7 }
/-- `P_OVH_START_GET` (the spec's general-knowledge default, log 11; so are the seven below). -/
def ovhStartGet : Nat := 1910
/-- `P_OVH_START_SET`. -/
def ovhStartSet : Nat := 1320
/-- `P_OVH_END`. -/
def ovhEnd : Nat := 960
/-- `P_OVH_MSRC`. -/
def ovhMsrc : Nat := 660
/-- `P_OVH_TCC`. -/
def ovhTcc : Nat := 590
/-- `P_OVH_DSS`. -/
def ovhDss : Nat := 690
/-- `P_OVH_PRE`. -/
def ovhPre : Nat := 660
/-- `P_OVH_FINAL`. -/
def ovhFinal : Nat := 550
/-- `P_DEV_ADDR_RESET`. -/
def devAddrReset : DevAddr := 0x29

/-- `P_TUNING_TABLE` as the instance supplies it: OPEN, so nothing is known of it (00_scope.md R6, 41_sequencer.md R161). -/
opaque tuningImage : List (Byte × Byte)

/-- `P_TUNING_TABLE` with its length, `P_TUNING_LEN`, at most 65535 (00_scope.md R6). -/
def tuningTable : List (Byte × Byte) := tuningImage.take 65535

/-- Whether register `reg` of bank `bank` is where the sensor keeps its bus address. The number is not in the source
(93_implementation_defined.md U20, 41_sequencer.md R160), so nothing is known of it (log 4). -/
opaque isAddrReg (bank reg : Byte) : Bool

/-- FREE VALUE (log 1). The event drawn after `n` earlier draws: which agent moves next and what it does. -/
opaque nextEvent (n : Nat) : Event

end Config

end Sys2Proof
end

