-- ==== Sys2Proof/Machine/State.lean ====
section
/-! DEFINITION. The block's state as plain data (spec/10_state.md R20 to R47), the outcomes that stop the model, and the state
after reset (R45). -/

namespace Sys2Proof.Machine

open Sys2Proof

/-- Why the model stops with a fault. The block itself has none: every error of a command is a next state (60_exceptions.md R250). -/
inductive Fault where
  /-- Raised by the host's step: an aligned word access outside the 0x100-byte CSR window, an address space that does not go on
  (20_memory.md R60). Safe: the block says nothing about such an access. -/
  | csrOutsideWindow
deriving DecidableEq, Repr

/-- Why the model refuses a step. -/
inductive Refusal where
  /-- Raised by an arm of exec that has no meaning yet: none is left. Safe. -/
  | notModelled (mnemonic : String)
  /-- Raised by the host's step: a CSR access that is not an aligned 32-bit one "is outside the host contract and a model refuses
  it (it has no meaning)" (20_memory.md R68). Safe. -/
  | csrAccessShape
deriving DecidableEq, Repr

/-- The error codes a command can end with (60_exceptions.md R250). -/
inductive ErrCode where
  | none
  | illegal
  | range
  | validation
  | div0
  | transport
  | timeout
deriving DecidableEq, Repr

/-- How many bytes a transport request moves (20_memory.md R62, R69). -/
inductive Width where
  | one
  | two
  | four
deriving DecidableEq, Repr

/-- One transport request (20_memory.md R62). `data` of a write holds the `8n` bits in its low bits. -/
inductive Request where
  | read (dev : DevAddr) (reg : Byte) (n : Width)
  | write (dev : DevAddr) (reg : Byte) (n : Width) (data : Word)
deriving DecidableEq, Repr

/-- What the engine receives of an answer: the assembled value of a read (0 for a write), or a failure (00_scope.md R9). -/
inductive Reply where
  | ok (value : Word)
  | fail
deriving DecidableEq, Repr

/-- The wire bytes of a request in flight that have been transferred so far, byte 0 first: of a READ what was returned, of a WRITE what was
sent. Each has its own moment (20_memory.md R70, 93_implementation_defined.md U6; log 3). -/
structure Transfer where
  b0 : Option Byte
  b1 : Option Byte
  b2 : Option Byte
  b3 : Option Byte
deriving DecidableEq, Repr

/-- No byte yet: a request that has just been issued. -/
def Transfer.none : Transfer := { b0 := .none, b1 := .none, b2 := .none, b3 := .none }

/-- The transport port: at most one request is in flight (10_state.md R40). -/
inductive Bus where
  | idle
  /-- The request is issued and not yet answered; `p` of its bytes have been transferred. -/
  | pending (r : Request) (p : Transfer)
  /-- The response has arrived and the engine has not gone on yet. -/
  | answered (r : Request) (a : Reply)
deriving DecidableEq, Repr

/-- Six 32-bit registers: ARG0 to ARG5, or RES0 to RES5 (10_state.md R21). -/
structure RegFile where
  r0 : Word
  r1 : Word
  r2 : Word
  r3 : Word
  r4 : Word
  r5 : Word
deriving DecidableEq, Repr

/-- One assignment line of a command's pseudocode (00_scope.md R9), its value already computed. -/
inductive Line where
  | res (i : Fin 6) (v : Word)
  /-- RES0 to RES5 "all together" (43_config_arith.md R224). -/
  | allRes (f : RegFile)
  | budget (v : Word)
  | stopVar (b : Byte)
  | stopValid
  | bank (b : Byte)
  | bankValid
  | cfgValid (v : Bool)
  | seqPc (v : BitVec 16)
  | devAddr (a : DevAddr)
  | deadline (t : Tick)
  | guardEn (v : Bool)
  | didTimeout
  /-- TIMEOUT_OCCURRED's read and clear, one indivisible step (42_guard.md R186, 20_memory.md R77). -/
  | takeTimeout
deriving DecidableEq, Repr

/-- What follows the assignment lines: the command's end with an error code (60_exceptions.md R258), or the head of its loop. -/
inductive After where
  | finish (e : ErrCode)
  | loop
deriving DecidableEq, Repr

/-- The engine's position in the running command's pseudocode (10_state.md R40). -/
inductive Pos where
  /-- Nothing of the command has run yet, not even its decoding. -/
  | start
  /-- A transport request is out. -/
  | await
  /-- These assignment lines come next, then `k`. -/
  | lines (ws : List Line) (k : After)
deriving DecidableEq, Repr

/-- The command engine: idle, or running CUR_CMD at a position (10_state.md R40). STATUS.BUSY is 1 exactly while it runs (R27). -/
inductive Engine where
  | idle
  | running (cmd : Word) (pos : Pos)
deriving DecidableEq, Repr

/-- The sensor's registers: (address, byte) pairs in canonical form (Machine/Memory.lean). The address of register `reg` of bank
`bank` is `256 * bank + reg` (20_memory.md R65). -/
abbrev Memory := List Host.Cell

/-- The whole state. Comments name the spec's element and the rule that gives it. -/
structure State where
  /-- ARG0 to ARG5 (R21). -/
  arg : RegFile
  /-- RES0 to RES5 (R21). -/
  res : RegFile
  /-- STATUS.DONE (R27). -/
  done : Bool
  /-- STATUS.ERR (R27). -/
  err : ErrCode
  /-- STATUS.OVERRUN (R27). -/
  overrun : Bool
  /-- STATUS.BANK_VALID (R27, R32). -/
  bankValid : Bool
  /-- STATUS.CFG_VALID (R27). -/
  cfgValid : Bool
  /-- STATUS.GUARD_EN (R27, R39). -/
  guardEn : Bool
  /-- STATUS.STOP_VALID (R27, R35). -/
  stopValid : Bool
  /-- IO_TIMEOUT in ms (R29). -/
  ioTimeout : Word
  /-- DEADLINE (R30). -/
  deadline : Tick
  /-- DEV_ADDR (R31). -/
  devAddr : DevAddr
  /-- BANK, the shadow of the sensor's bank (R32). -/
  bank : Byte
  /-- STOP_VAR (R35). -/
  stopVar : Byte
  /-- BUDGET_US (R36). -/
  budgetUs : Word
  /-- SEQ_PC (R33). -/
  seqPc : BitVec 16
  /-- P_TUNING_TABLE, a read-only table; SEQ_LEN is its length (R34, R42). -/
  tuning : List (Byte × Byte)
  /-- DID_TIMEOUT, hidden (R38). -/
  didTimeout : Bool
  /-- CUR_CMD and the engine's position, and with them STATUS.BUSY (R40, R27). -/
  engine : Engine
  /-- The transport request in flight, or its response (R40, R44). -/
  bus : Bus
  /-- The tick input's present value (R47). -/
  tick : Tick
  /-- SB, the sensor's current bank; the sensor's state, not the block's (20_memory.md R65). -/
  sensorBank : Byte
  /-- The bus address the sensor answers at; the sensor's state, not the block's (70_reset_and_hazards.md R283, 41_sequencer.md R160). -/
  sensorAddr : DevAddr
  /-- The sensor's registers; the sensor's state, not the block's (20_memory.md R63, R65). -/
  sensor : Memory
  /-- The word the host's last CSR read returned. -/
  readData : Word
  /-- The model's own: the event the next step performs (log 1). -/
  next : Event
  /-- The model's own: how many events have been drawn (log 1). -/
  draws : Nat
deriving DecidableEq, Repr

/-- Six registers of 0. -/
def RegFile.zero : RegFile := { r0 := 0, r1 := 0, r2 := 0, r3 := 0, r4 := 0, r5 := 0 }

/-- The state after reset: 10_state.md R45; for the fields below `bus`, which no rule gives a value, log 5 and log 8. -/
def State.reset : State where
  arg := RegFile.zero
  res := RegFile.zero
  done := false
  err := .none
  overrun := false
  bankValid := false
  cfgValid := false
  guardEn := false
  stopValid := false
  ioTimeout := 0
  deadline := 0
  devAddr := Config.devAddrReset
  bank := 0
  stopVar := 0
  budgetUs := 0
  seqPc := 0
  tuning := Config.tuningTable
  didTimeout := false
  engine := .idle
  bus := .idle
  tick := 0
  sensorBank := 0
  sensorAddr := Config.devAddrReset
  sensor := []
  readData := 0
  next := .engine
  draws := 0

end Sys2Proof.Machine
end

