-- ==== Sys2Proof/Machine/Flags.lean ====
section
/-! DEFINITION. STATUS as the host reads it: every field at its place (spec/10_state.md R27) and the error codes (spec/60_exceptions.md R250). -/

namespace Sys2Proof.Machine

open Sys2Proof

/-- The number of an error code (R250). -/
def ErrCode.code : ErrCode → BitVec 4
  | .none => 0
  | .illegal => 1
  | .range => 2
  | .validation => 3
  | .div0 => 4
  | .transport => 5
  | .timeout => 6

/-- STATUS.BUSY: 1 from a command's start until its completion (R27). -/
def State.busy (s : State) : Bool :=
  match s.engine with
  | .idle => false
  | .running _ _ => true

/-- The STATUS word; bits [3:2] and [31:13] read 0 (R27, R37). -/
def State.statusWord (s : State) : Word :=
  word (s.busy.toNat + s.done.toNat * 2 ^ 1 + s.err.code.toNat * 2 ^ 4 + s.overrun.toNat * 2 ^ 8 + s.bankValid.toNat * 2 ^ 9
    + s.cfgValid.toNat * 2 ^ 10 + s.guardEn.toNat * 2 ^ 11 + s.stopValid.toNat * 2 ^ 12)

end Sys2Proof.Machine
end

