-- ==== Sys2Proof/Machine/Memory.lean ====
section
/-! DEFINITION. The sensor's register file behind the transport: one canonical list of cells (spec/20_memory.md R60, R65), the
bytes of a transport access (R63), and what an access does to the sensor (R65, R70, R81). -/

namespace Sys2Proof.Machine

open Sys2Proof

/-- What an unlisted sensor register holds: the spec gives no contents; DESIGN CHOICE (log 5). -/
def Memory.unlisted : Byte := 0

/-- The byte register `a` holds. -/
def Memory.read : Memory → Nat → Byte
  | [], _ => Memory.unlisted
  | (b, v) :: m, a => if a = b then v else Memory.read m a

/-- Cells from address `lo` on: addresses strictly rising, none past bank 0xFF, no entry equal to what an unlisted register holds. -/
def Memory.wfFrom : Nat → Memory → Bool
  | _, [] => true
  | lo, (a, v) :: m => decide (lo ≤ a) && decide (a < 65536) && decide (v ≠ Memory.unlisted) && Memory.wfFrom (a + 1) m

/-- The canonical form. -/
def Memory.wf (m : Memory) : Bool := Memory.wfFrom 0 m

/-- Register `a` now holds `v`; an entry equal to the unlisted byte is left out. -/
def Memory.write : Memory → Nat → Byte → Memory
  | [], a, v => if v = Memory.unlisted then [] else [(a, v)]
  | (b, w) :: m, a, v =>
    if a < b then (if v = Memory.unlisted then (b, w) :: m else (a, v) :: (b, w) :: m)
    else if a = b then (if v = Memory.unlisted then m else (a, v) :: m)
    else (b, w) :: Memory.write m a v

/-- The address of physical register `(bank, reg)` (R65). -/
def physAddr (bank reg : Byte) : Nat := 256 * bank.toNat + reg.toNat

/-- `n` of R62. -/
def Width.bytes : Width → Nat
  | .one => 1
  | .two => 2
  | .four => 4

/-- The device address of a request (R62). -/
def Request.dev : Request → DevAddr
  | .read dev _ _ => dev
  | .write dev _ _ _ => dev

/-- Wire byte `k` of a transfer, where it has been transferred. -/
def Transfer.get (p : Transfer) : Nat → Option Byte
  | 0 => p.b0
  | 1 => p.b1
  | 2 => p.b2
  | 3 => p.b3
  | _ => .none

/-- Wire byte `k` is now transferred. -/
def Transfer.set (p : Transfer) (k : Nat) (b : Byte) : Transfer :=
  match k with
  | 0 => { p with b0 := some b }
  | 1 => { p with b1 := some b }
  | 2 => { p with b2 := some b }
  | 3 => { p with b3 := some b }
  | _ => p

/-- The bytes still to be transferred: bit `k` is 1 where wire byte `k` is. -/
def Transfer.left (p : Transfer) : BitVec 4 :=
  BitVec.ofNat 4 (p.b0.isNone.toNat + 2 * p.b1.isNone.toNat + 4 * p.b2.isNone.toNat + 8 * p.b3.isNone.toNat)

/-- `B(r)` of R63: the byte register `r` of the current bank holds. A read of 0xFF returns `free`, any value (log 13). -/
def sensorByte (s : State) (free : Byte) (reg : Byte) : Byte :=
  if reg = 0xFF#8 then free else s.sensor.read (physAddr s.sensorBank reg)

/-- What the device at `dev` returns for register `reg` now: the sensor its register; at any other address `free`, any value (log 4). -/
def deviceByte (s : State) (free : Byte) (dev : DevAddr) (reg : Byte) : Byte :=
  if dev = s.sensorAddr then sensorByte s free reg else free

/-- MemRead's value from its wire bytes, byte 0 the most significant (R63). -/
def wireValue (n : Width) (byte : Nat → Byte) : Word :=
  match n with
  | .one => zext (byte 0)
  | .two => word ((byte 0).toNat * 2 ^ 8 + (byte 1).toNat)
  | .four => word ((byte 0).toNat * 2 ^ 24 + (byte 1).toNat * 2 ^ 16 + (byte 2).toNat * 2 ^ 8 + (byte 3).toNat)

/-- The byte of an answer's free word that stands for wire byte `k`. -/
def freeByte (free : Word) (k : Nat) : Byte := free.extractLsb' (8 * k) 8

/-- The value of a READ: each wire byte as it was transferred, or as the device returns it now (R63, R70). Wire byte `k` is register
`reg + k`'s. -/
def readValue (s : State) (free : Word) (dev : DevAddr) (reg : Byte) (n : Width) (p : Transfer) : Word :=
  wireValue n fun k => (p.get k).getD (deviceByte s (freeByte free k) dev (reg + BitVec.ofNat 8 k))

/-- The sensor takes byte `b` at register `reg`: a write to 0xFF selects the bank, any other reaches `(SB, reg)` (R65); at its address
register the sensor takes the low 7 bits as its bus address (41_sequencer.md R160; log 4). -/
def sensorTake (reg b : Byte) (s : State) : State :=
  if reg = 0xFF#8 then { s with sensorBank := b }
  else
    { s with
      sensor := s.sensor.write (physAddr s.sensorBank reg) b
      sensorAddr := if Config.isAddrReg s.sensorBank reg then b.setWidth 7 else s.sensorAddr }

/-- The bytes of a write in wire order, most significant first (R63). -/
def wireBytes (n : Width) (v : Word) : List Byte :=
  match n with
  | .one => [v.extractLsb' 0 8]
  | .two => [v.extractLsb' 8 8, v.extractLsb' 0 8]
  | .four => [v.extractLsb' 24 8, v.extractLsb' 16 8, v.extractLsb' 8 8, v.extractLsb' 0 8]

/-- Wire byte `k` goes to register `reg + k`, in wire order, each byte only where its bit of `took` is 1 (R63, R81). -/
def takeBytes : List Byte → Byte → BitVec 4 → State → State
  | [], _, _, s => s
  | b :: bs, reg, took, s => takeBytes bs (reg + 1) (took >>> 1) (if took.getLsbD 0 then sensorTake reg b s else s)

/-- What the sensor takes of a request of which `p` has been transferred: of a WRITE to its own bus address the bytes `took` names, those
already transferred excepted; of a READ, or at another address, nothing (R60, R63; log 3, log 4). The address is compared once, before
the first of these bytes: where a byte of the same WRITE has moved the sensor earlier, by a `wire` event, the bytes left are lost, an Ok
answer's too, while those that land with the move in one call all do. R63 and R70 leave this open: DESIGN CHOICE (log 20). -/
def sensorServes (took : BitVec 4) (r : Request) (p : Transfer) (s : State) : State :=
  match r with
  | .read _ _ _ => s
  | .write dev reg n v => if dev = s.sensorAddr then takeBytes (wireBytes n v) reg (took &&& p.left) s else s

/-- The state `s` with the sensor as `u` has it. -/
def State.withSensor (s u : State) : State :=
  { s with sensor := u.sensor, sensorBank := u.sensorBank, sensorAddr := u.sensorAddr }

/-- The sensor changes its own register `(bank, reg)` (R71); SB changes only by a write to 0xFF (R65, log 16). -/
def sensorChanges (bank reg v : Byte) (s : State) : State :=
  if reg = 0xFF#8 then s else { s with sensor := s.sensor.write (physAddr bank reg) v }

/-- Wire byte `k` of the request in flight is transferred by itself (R70); without one, without such a byte, or where it has been
transferred, nothing happens. -/
def transfersByte (k : Nat) (free : Byte) (s : State) : State :=
  match s.bus with
  | .pending (.read dev reg n) p =>
    if k < n.bytes ∧ p.get k = .none then
      { s with bus := .pending (.read dev reg n) (p.set k (deviceByte s free dev (reg + BitVec.ofNat 8 k))) }
    else s
  | .pending (.write dev reg n v) p =>
    if k < n.bytes ∧ p.get k = .none then
      { s.withSensor (sensorServes (1#4 <<< k) (.write dev reg n v) p s) with
        bus := .pending (.write dev reg n v) (p.set k ((wireBytes n v).getD k 0)) }
    else s
  | .idle => s
  | .answered _ _ => s

/-- The transport answers the request in flight (R81), the bytes not yet transferred with it; without one nothing happens. -/
def transportAnswers (a : Answer) (s : State) : State :=
  match s.bus with
  | .pending (.read dev reg n) p =>
    match a with
    | .ok free => { s with bus := .answered (.read dev reg n) (.ok (readValue s free dev reg n p)) }
    | .fail _ => { s with bus := .answered (.read dev reg n) .fail }
  | .pending (.write dev reg n v) p =>
    match a with
    | .ok _ =>
      { s.withSensor (sensorServes 0xF (.write dev reg n v) p s) with bus := .answered (.write dev reg n v) (.ok 0) }
    | .fail took =>
      { s.withSensor (sensorServes took (.write dev reg n v) p s) with bus := .answered (.write dev reg n v) .fail }
  | .idle => s
  | .answered _ _ => s

end Sys2Proof.Machine
end

