-- ==== Sys2Proof/Machine/Operands.lean ====
section
/-! DEFINITION. The operands of the commands: registers by index, the fields of ARG registers (spec/30_encoding.md R96) and the
narrow-operand check (spec/00_scope.md R10). -/

namespace Sys2Proof.Machine

open Sys2Proof

/-- Register `i` of a file. -/
def RegFile.get (f : RegFile) (i : Fin 6) : Word :=
  match i with
  | 0 => f.r0
  | 1 => f.r1
  | 2 => f.r2
  | 3 => f.r3
  | 4 => f.r4
  | 5 => f.r5

/-- The file with register `i` holding `v`. -/
def RegFile.set (f : RegFile) (i : Fin 6) (v : Word) : RegFile :=
  match i with
  | 0 => { f with r0 := v }
  | 1 => { f with r1 := v }
  | 2 => { f with r2 := v }
  | 3 => { f with r3 := v }
  | 4 => { f with r4 := v }
  | 5 => { f with r5 := v }

/-- The field `v[lo+n-1:lo]` read as an unsigned integer (R8). -/
def field (v : Word) (lo n : Nat) : Nat := v.toNat / 2 ^ lo % 2 ^ n

/-- R10's check: the operand uses the low `n` bits and every higher bit of its register is 0. -/
def fits (v : Word) (n : Nat) : Bool := decide (v.toNat < 2 ^ n)

end Sys2Proof.Machine
end

