-- ==== Sys2Proof/Machine/Ops.lean ====
section
/-! DEFINITION. The shared operations of the command engine: starting a command, its pseudocode lines, completion (the block's one
trap entry, spec/60_exceptions.md R258), the TRANSPORT error (R253), the transport port, and the guard (spec/42_guard.md). -/

namespace Sys2Proof.Machine

open Sys2Proof

/-- A command starts: the engine latches the word, BUSY <- 1, DONE <- 0, ERR <- 0 (10_state.md R26). -/
def startCommand (w : Word) (s : State) : State :=
  { s with engine := .running w .start, done := false, err := .none }

/-- The engine moves to position `p` of the running command. -/
def setPos (p : Pos) (s : State) : State :=
  match s.engine with
  | .idle => s
  | .running cmd _ => { s with engine := .running cmd p }

/-- Completion, the one indivisible step every command ends in: ERR <- code, DONE <- 1, BUSY <- 0 (60_exceptions.md R258). It is
taken by `done` and by every `raise`; there is no other trap entry, and no return from one (R260). -/
def complete (e : ErrCode) (s : State) : State :=
  { s with err := e, done := true, engine := .idle }

/-- What one assignment line writes. -/
def Line.apply (l : Line) (s : State) : State :=
  match l with
  | .res i v => { s with res := s.res.set i v }
  | .allRes f => { s with res := f }
  | .budget v => { s with budgetUs := v }
  | .stopVar b => { s with stopVar := b }
  | .stopValid => { s with stopValid := true }
  | .bank b => { s with bank := b }
  | .bankValid => { s with bankValid := true }
  | .cfgValid v => { s with cfgValid := v }
  | .seqPc v => { s with seqPc := v }
  | .devAddr a => { s with devAddr := a }
  | .deadline t => { s with deadline := t }
  | .guardEn v => { s with guardEn := v }
  | .didTimeout => { s with didTimeout := true }
  | .takeTimeout => { s with res := s.res.set 0 (if s.didTimeout then 1 else 0), didTimeout := false }

/-- The first of the lines `ws` is written and the rest wait for later turns; after the last one the command ends, or stands at
its loop's head (00_scope.md R9: "Lines execute in order"; log 2). -/
def emit (ws : List Line) (k : After) (s : State) : State :=
  match ws, k with
  | [], .finish e => complete e s
  | [], .loop => setPos (.lines [] .loop) s
  | l :: rest, k => setPos (.lines rest k) (l.apply s)

/-- All the lines at once: what `emit` comes to over its turns. -/
def applyAll (ws : List Line) (s : State) : State :=
  match ws with
  | [] => s
  | l :: rest => applyAll rest (l.apply s)

/-- The engine issues one request and waits for its response (20_memory.md R62, R74). -/
def issue (r : Request) (s : State) : State := setPos .await { s with bus := .pending r .none }

/-- Whether a request is a WRITE to register 0xFF (R253). -/
def Request.writesBank : Request → Bool
  | .read _ _ _ => false
  | .write _ reg _ _ => reg == 0xFF#8

/-- `raise TRANSPORT(access)` with its fixed effects: CFG_VALID <- 0, and BANK_VALID <- 0 where the failed request was a WRITE to
0xFF; nothing else changes (60_exceptions.md R253). -/
def raiseTransport (r : Request) (s : State) : State :=
  complete .transport { s with cfgValid := false, bankValid := s.bankValid && !r.writesBank }

/-- The engine's turn while a request is out: it goes on only once the response has arrived (00_scope.md R9), with `onOk` on the
request and the value read. -/
def awaitReply (onOk : Request → Word → State → State) (s : State) : State :=
  match s.bus with
  | .idle => s
  | .pending _ _ => s
  | .answered r (.ok v) => onOk r v { s with bus := .idle }
  | .answered r .fail => raiseTransport r { s with bus := .idle }

/-- One turn of the engine in a running command: `start` at its beginning, `onOk` when a response arrives, `loop` at its loop's
head, and the waiting assignment lines one by one. An idle engine does nothing (log 15). -/
def turn (s start loop : State) (onOk : Request → Word → State → State) : Host.Outcome State Fault Refusal :=
  match s.engine with
  | .idle => .next s
  | .running _ .start => .next start
  | .running _ .await => .next (awaitReply onOk s)
  | .running _ (.lines [] .loop) => .next loop
  | .running _ (.lines ws k) => .next (emit ws k s)

/-- A command that only computes: the lines it writes, or the error it raises before any write (43_config_arith.md,
40_timing_model.md). -/
def compute (result : Except ErrCode (List Line)) (s : State) : Host.Outcome State Fault Refusal :=
  turn s
    (match result with
      | .ok ws => emit ws (.finish .none) s
      | .error e => complete e s)
    s (fun _ _ t => t)

/-- A command that makes one request and then writes lines made from the request and its value. -/
def access (r : Request) (lines : Request → Word → List Line) (s : State) : Host.Outcome State Fault Refusal :=
  turn s (issue r s) s (fun r v t => emit (lines r v) (.finish .none) t)

/-- `write_byte`'s lines after an Ok write: the bank shadow, where the register is 0xFF (41_sequencer.md R150). -/
def shadowLines (r : Request) : List Line :=
  match r with
  | .read _ _ _ => []
  | .write _ reg _ v => if reg = 0xFF#8 then [.bank (v.setWidth 8), .bankValid] else []

/-- The guard's deadline for a tick `t`: the exact sum with IO_TIMEOUT, saturating at 2^64 - 1 (42_guard.md R181). -/
def deadlineFrom (t : Tick) (timeout : Word) : Tick :=
  BitVec.ofNat 64 (min (t.toNat + timeout.toNat) (2 ^ 64 - 1))

/-- `arm()`'s lines (42_guard.md R181); `Now()` is the tick input's present value (R180). -/
def armLines (s : State) : List Line :=
  [.deadline (deadlineFrom s.tick s.ioTimeout), .guardEn (s.ioTimeout != 0)]

/-- `expired()`: the guard is enabled and the tick is past the deadline, strictly (42_guard.md R182). -/
def expired (s : State) : Bool := s.guardEn && decide (s.deadline.toNat < s.tick.toNat)

/-- The tick input moves on, never backwards (42_guard.md R180). -/
def tickMoves (t : Tick) (s : State) : State :=
  { s with tick := if s.tick.toNat ≤ t.toNat then t else s.tick }

/-- Block reset (70_reset_and_hazards.md R280 to R283): every state element takes the value of 10_state.md R45 at once, whatever
runs. The instance's table stays; the sensor is not reset: its registers, its bank and its bus address stay (R283), but that it may have
taken any part of a write in flight; the tick, the host's
last read word and the drawn events are not the block's. -/
def resetBlock (took : BitVec 4) (t : Tick) (s : State) : State :=
  let u := match s.bus with
    | .pending r p => sensorServes took r p s
    | .idle => s
    | .answered _ _ => s
  { State.reset with
    tuning := s.tuning
    tick := t
    sensorBank := u.sensorBank
    sensorAddr := u.sensorAddr
    sensor := u.sensor
    readData := s.readData
    next := s.next
    draws := s.draws }

end Sys2Proof.Machine
end

