-- ==== Sys2Proof/Machine/Timing.lean ====
section
/-! DEFINITION. The Timing Model: the functions of spec/40_timing_model.md R120 to R124 on exact natural numbers, and the commands
R127 to R131. -/

namespace Sys2Proof.Machine

open Sys2Proof

/-- The macro period in ns for a VCSEL period of `p` PCLKs (R120). -/
def mp (p : Nat) : Nat := (Config.macroVclks * p * Config.pllPs + 500) / 1000

/-- Timeout decode of a 16-bit register value, exact (R121). -/
def decTo (r : Nat) : Nat := r % 256 * 2 ^ (r / 256) + 1

/-- The least `m` with `x >> m ≤ 255`, among the first `fuel` (R122). -/
def leastShift : Nat → Nat → Nat
  | 0, _ => 0
  | fuel + 1, x => if x ≤ 255 then 0 else leastShift fuel (x / 2) + 1

/-- Timeout encode of an MCLK count of at most 16 bits (R122); 16 shifts are enough for it. -/
def encTo (t : Nat) : Nat :=
  if t = 0 then 0
  else
    let m := leastShift 16 (t - 1)
    m * 256 + (t - 1) / 2 ^ m

/-- MCLK count to microseconds, with either bias of `P_M2U_BIAS` (R123). -/
def m2u (bias : M2uBias) (m p : Nat) : Nat :=
  match bias with
  | .halfDivisor => (m * mp p + 500) / 1000
  | .halfMacro => (m * mp p + mp p / 2) / 1000

/-- Microseconds to MCLK count, for a period with `mp p > 0` (R124). -/
def u2m (u p : Nat) : Nat := (u * 1000 + mp p / 2) / mp p

/-- DEC_TIMEOUT's pseudocode (R127). -/
def decTimeoutLines (s : State) : Except ErrCode (List Line) :=
  if !fits s.arg.r0 16 then .error .range
  else if 0xFFFF < decTo (field s.arg.r0 0 16) then .error .range
  else .ok [.res 0 (word (decTo (field s.arg.r0 0 16)))]

/-- DEC_TIMEOUT (R127). -/
def execDecTimeout (s : State) : Host.Outcome State Fault Refusal := compute (decTimeoutLines s) s

/-- ENC_TIMEOUT's pseudocode (R128). -/
def encTimeoutLines (s : State) : Except ErrCode (List Line) :=
  if !fits s.arg.r0 16 then .error .range
  else .ok [.res 0 (word (encTo (field s.arg.r0 0 16)))]

/-- ENC_TIMEOUT (R128). -/
def execEncTimeout (s : State) : Host.Outcome State Fault Refusal := compute (encTimeoutLines s) s

/-- MACRO_PERIOD's pseudocode (R129). -/
def macroPeriodLines (s : State) : Except ErrCode (List Line) :=
  if !fits s.arg.r0 8 then .error .range
  else .ok [.res 0 (word (mp (field s.arg.r0 0 8)))]

/-- MACRO_PERIOD (R129). -/
def execMacroPeriod (s : State) : Host.Outcome State Fault Refusal := compute (macroPeriodLines s) s

/-- MCLK_TO_US's pseudocode (R130), for either bias. -/
def mclkToUsLines (bias : M2uBias) (s : State) : Except ErrCode (List Line) :=
  if !fits s.arg.r1 8 then .error .range
  else if 2 ^ 32 ≤ m2u bias s.arg.r0.toNat (field s.arg.r1 0 8) then .error .range
  else .ok [.res 0 (word (m2u bias s.arg.r0.toNat (field s.arg.r1 0 8)))]

/-- MCLK_TO_US (R130). -/
def execMclkToUs (s : State) : Host.Outcome State Fault Refusal := compute (mclkToUsLines Config.m2uBias s) s

/-- US_TO_MCLK's pseudocode (R131). -/
def usToMclkLines (s : State) : Except ErrCode (List Line) :=
  if !fits s.arg.r1 8 then .error .range
  else if mp (field s.arg.r1 0 8) = 0 then .error .div0
  else .ok [.res 0 (word (u2m s.arg.r0.toNat (field s.arg.r1 0 8)))]

/-- US_TO_MCLK (R131). -/
def execUsToMclk (s : State) : Host.Outcome State Fault Refusal := compute (usToMclkLines s) s

end Sys2Proof.Machine
end

