-- ==== Sys2Proof/Machine/ConfigArith.lean ====
section
/-! DEFINITION. The configuration arithmetic: the functions of spec/43_config_arith.md R210 to R217 and the commands R220 to R228. -/

namespace Sys2Proof.Machine

open Sys2Proof

/-- The five sequence-step enables (R210). -/
structure Enables where
  tcc   : Bool
  msrc  : Bool
  dss   : Bool
  pre   : Bool
  final : Bool
deriving DecidableEq, Repr

/-- Sequence-step enables of a configuration byte, for a bit mapping `P_SEQ_BITS` (R210). -/
def seqEnables (bits : SeqBits) (b : Nat) : Enables :=
  { tcc := b.testBit bits.tcc, msrc := b.testBit bits.msrc, dss := b.testBit bits.dss, pre := b.testBit bits.pre,
    final := b.testBit bits.final }

/-- The five enables as SEQ_DECODE returns them: bits [4:0] = final, pre, dss, msrc, tcc (R220). -/
def Enables.code (e : Enables) : Nat :=
  e.tcc.toNat + 2 * e.msrc.toNat + 4 * e.dss.toNat + 8 * e.pre.toNat + 16 * e.final.toNat

/-- VCSEL period register decode, in PCLKs (R211). -/
def vdec (r : Nat) : Nat := (r + 1) * 2

/-- VCSEL period encode (R212). -/
def venc (p : Nat) : Nat := p / 2 - 1

/-- The step timeouts of R213. -/
structure StepTimeouts where
  prePclks  : Nat
  finPclks  : Nat
  msrcMclks : Nat
  msrcUs    : Nat
  preMclks  : Nat
  preUs     : Nat
  finMclks  : Nat
  finUs     : Nat
deriving DecidableEq, Repr

/-- The pre-range count that the stored final-range count contains (R213). -/
def preShare (e : Enables) (preMclks : Nat) : Nat := if e.pre then preMclks else 0

/-- R213 from the raw register values; R224 asks for it only where the final-range subtraction does not go below 0. -/
def stepTimeouts (bias : M2uBias) (e : Enables) (preReg finReg msrcReg preTo finTo : Nat) : StepTimeouts :=
  { prePclks := vdec preReg
    finPclks := vdec finReg
    msrcMclks := msrcReg + 1
    msrcUs := m2u bias (msrcReg + 1) (vdec preReg)
    preMclks := decTo preTo
    preUs := m2u bias (decTo preTo) (vdec preReg)
    finMclks := decTo finTo - preShare e (decTo preTo)
    finUs := m2u bias (decTo finTo - preShare e (decTo preTo)) (vdec finReg) }

/-- What the enabled steps before the final range cost, in µs: TCC, then DSS or else MSRC, then pre-range (R214, R215). -/
def stepCosts (e : Enables) (msrcUs preUs : Nat) : Nat :=
  (if e.tcc then msrcUs + Config.ovhTcc else 0)
    + (if e.dss then 2 * (msrcUs + Config.ovhDss) else if e.msrc then msrcUs + Config.ovhMsrc else 0)
    + (if e.pre then preUs + Config.ovhPre else 0)

/-- The timing budget, get path (R214). -/
def budgetSum (e : Enables) (msrcUs preUs finUs : Nat) : Nat :=
  Config.ovhStartGet + Config.ovhEnd + stepCosts e msrcUs preUs + (if e.final then finUs + Config.ovhFinal else 0)

/-- What the set path counts as used before the final-range allotment, the final-range overhead included (R215). -/
def budgetUsed (e : Enables) (msrcUs preUs : Nat) : Nat :=
  Config.ovhStartSet + Config.ovhEnd + stepCosts e msrcUs preUs + Config.ovhFinal

/-- What R215 answers: no final-range value, or the register value, the MCLK count and the µs allotted. -/
inductive Allotment where
  | noFinal
  | final (regVal mclks us : Nat)
deriving DecidableEq, Repr

/-- The final-range allocation, set path, with its failures in the order R215 names them. -/
def budgetAlloc (e : Enables) (finPclks msrcUs preUs preMclks budget : Nat) : Except ErrCode Allotment :=
  if budget < Config.minBudgetUs then .error .validation
  else if !e.final then .ok .noFinal
  else if budget < budgetUsed e msrcUs preUs then .error .validation
  else if mp finPclks = 0 then .error .div0
  else
    let us := budget - budgetUsed e msrcUs preUs
    let mclks := u2m us finPclks + preShare e preMclks
    if 0xFFFF < mclks then .error .range
    else .ok (.final (encTo mclks) mclks us)

/-- The magnitude of a binary32 pattern in units of 2^-149, for an exponent field below 255 (R216): exact. -/
def srlMagnitude (w : Word) : Nat :=
  if field w 23 8 = 0 then field w 0 23 else (2 ^ 23 + field w 0 23) * 2 ^ (field w 23 8 - 1)

/-- Q9.7 encode of a binary32 pattern, `none` where R216 fails: NaN or infinity, a negative value, a value above P_SRL_MAX
(compared exactly: `v > N/D` is `D * mag > N * 2^149`). The result is `floor(v * 128) = mag / 2^142`. -/
def srlEnc (w : Word) : Option Nat :=
  if field w 23 8 = 255 then none
  else if w.getLsbD 31 ∧ srlMagnitude w ≠ 0 then none
  else if Config.srlMaxNum * 2 ^ 149 < Config.srlMaxDen * srlMagnitude w then none
  else some (srlMagnitude w / 2 ^ 142)

/-- `floor(log2 q)` for `0 < q < 2^fuel`. -/
def floorLog2 : Nat → Nat → Nat
  | 0, _ => 0
  | fuel + 1, q => if q ≤ 1 then 0 else floorLog2 fuel (q / 2) + 1

/-- Q9.7 decode to the binary32 pattern of `q / 128` (R217). -/
def srlDec (q : Nat) : Nat :=
  if q = 0 then 0
  else
    let k := floorLog2 16 q
    (k + 120) * 2 ^ 23 + q * 2 ^ (23 - k) % 2 ^ 23

/-- SEQ_DECODE's pseudocode (R220), for either bit mapping. -/
def seqDecodeLines (bits : SeqBits) (s : State) : Except ErrCode (List Line) :=
  if !fits s.arg.r0 8 then .error .range
  else .ok [.res 0 (word (seqEnables bits (field s.arg.r0 0 8)).code)]

/-- SEQ_DECODE (R220). -/
def execSeqDecode (s : State) : Host.Outcome State Fault Refusal := compute (seqDecodeLines Config.seqBits s) s

/-- VCSEL_DEC's pseudocode (R221). -/
def vcselDecLines (s : State) : Except ErrCode (List Line) :=
  if !fits s.arg.r0 8 then .error .range
  else if 255 < vdec (field s.arg.r0 0 8) then .error .range
  else .ok [.res 0 (word (vdec (field s.arg.r0 0 8)))]

/-- VCSEL_DEC (R221). -/
def execVcselDec (s : State) : Host.Outcome State Fault Refusal := compute (vcselDecLines s) s

/-- The pseudocode of both VCSEL_ENC forms, for the set of legal periods of their kind (R212, R222, R223). -/
def vcselEncLines (legal : List Nat) (s : State) : Except ErrCode (List Line) :=
  if !fits s.arg.r0 8 then .error .range
  else if !legal.contains (field s.arg.r0 0 8) then .error .validation
  else .ok [.res 0 (word (venc (field s.arg.r0 0 8)))]

/-- VCSEL_ENC.PRE (R222). -/
def execVcselEncPre (s : State) : Host.Outcome State Fault Refusal := compute (vcselEncLines Config.vcselPreSet s) s

/-- VCSEL_ENC.FINAL (R223). -/
def execVcselEncFinal (s : State) : Host.Outcome State Fault Refusal := compute (vcselEncLines Config.vcselFinalSet s) s

/-- The register values STEP_TIMEOUTS reads from ARG0 and ARG1, put through R213. -/
def stepTimeoutsOf (bias : M2uBias) (bits : SeqBits) (s : State) : StepTimeouts :=
  stepTimeouts bias (seqEnables bits (field s.arg.r0 0 8)) (field s.arg.r0 8 8) (field s.arg.r0 16 8) (field s.arg.r0 24 8)
    (field s.arg.r1 0 16) (field s.arg.r1 16 16)

/-- Whether STEP_TIMEOUTS raises RANGE: a period above 255, a decoded timeout above 0xFFFF, or a final-range count below the
enabled pre-range count (R224). -/
def stepTimeoutsOutOfRange (bits : SeqBits) (s : State) : Bool :=
  decide (255 < vdec (field s.arg.r0 8 8)) || decide (255 < vdec (field s.arg.r0 16 8))
    || decide (0xFFFF < decTo (field s.arg.r1 0 16)) || decide (0xFFFF < decTo (field s.arg.r1 16 16))
    || decide (decTo (field s.arg.r1 16 16) < preShare (seqEnables bits (field s.arg.r0 0 8)) (decTo (field s.arg.r1 0 16)))

/-- What STEP_TIMEOUTS leaves in RES0 to RES5 (R224). -/
def StepTimeouts.results (t : StepTimeouts) : RegFile :=
  { r0 := word (t.msrcMclks * 2 ^ 16 + t.finPclks * 2 ^ 8 + t.prePclks)
    r1 := word t.msrcUs
    r2 := word t.preMclks
    r3 := word t.preUs
    r4 := word t.finMclks
    r5 := word t.finUs }

/-- STEP_TIMEOUTS's pseudocode; "RES0 to RES5 (all together, only on success)" (R224): one line writes the six. -/
def stepTimeoutsLines (bias : M2uBias) (bits : SeqBits) (s : State) : Except ErrCode (List Line) :=
  if stepTimeoutsOutOfRange bits s then .error .range
  else .ok [.allRes (stepTimeoutsOf bias bits s).results]

/-- STEP_TIMEOUTS (R224). -/
def execStepTimeouts (s : State) : Host.Outcome State Fault Refusal :=
  compute (stepTimeoutsLines Config.m2uBias Config.seqBits s) s

/-- The sum BUDGET_GET computes from its operands (R225). -/
def budgetGetSum (bits : SeqBits) (s : State) : Nat :=
  budgetSum (seqEnables bits (field s.arg.r0 0 8)) s.arg.r1.toNat s.arg.r2.toNat s.arg.r3.toNat

/-- BUDGET_GET's pseudocode (R225). -/
def budgetGetLines (bits : SeqBits) (s : State) : Except ErrCode (List Line) :=
  if !fits s.arg.r0 8 then .error .range
  else if 2 ^ 32 ≤ budgetGetSum bits s then .error .range
  else .ok [.res 0 (word (budgetGetSum bits s)), .budget (word (budgetGetSum bits s))]

/-- BUDGET_GET (R225). -/
def execBudgetGet (s : State) : Host.Outcome State Fault Refusal := compute (budgetGetLines Config.seqBits s) s

/-- The allocation BUDGET_SET asks for with its operands (R226). -/
def budgetSetAlloc (bits : SeqBits) (s : State) : Except ErrCode Allotment :=
  budgetAlloc (seqEnables bits (field s.arg.r0 0 8)) (field s.arg.r0 8 8) s.arg.r1.toNat s.arg.r2.toNat (field s.arg.r3 0 16)
    s.arg.r4.toNat

/-- BUDGET_SET's pseudocode (R226). -/
def budgetSetLines (bits : SeqBits) (s : State) : Except ErrCode (List Line) :=
  if !fits s.arg.r0 16 || !fits s.arg.r3 16 then .error .range
  else
    match budgetSetAlloc bits s with
    | .error e => .error e
    | .ok .noFinal => .ok [.res 3 0]
    | .ok (.final regVal mclks us) =>
      .ok [.res 0 (word regVal), .res 1 (word mclks), .res 2 (word us), .res 3 1, .budget s.arg.r4]

/-- BUDGET_SET (R226). -/
def execBudgetSet (s : State) : Host.Outcome State Fault Refusal := compute (budgetSetLines Config.seqBits s) s

/-- SRL_ENC's pseudocode (R227). -/
def srlEncLines (s : State) : Except ErrCode (List Line) :=
  match srlEnc s.arg.r0 with
  | none => .error .validation
  | some q => .ok [.res 0 (word q)]

/-- SRL_ENC (R227). -/
def execSrlEnc (s : State) : Host.Outcome State Fault Refusal := compute (srlEncLines s) s

/-- SRL_DEC's pseudocode (R228). -/
def srlDecLines (s : State) : Except ErrCode (List Line) :=
  if !fits s.arg.r0 16 then .error .range
  else .ok [.res 0 (word (srlDec (field s.arg.r0 0 16)))]

/-- SRL_DEC (R228). -/
def execSrlDec (s : State) : Host.Outcome State Fault Refusal := compute (srlDecLines s) s

end Sys2Proof.Machine
end

