-- ==== Sys2Proof/Machine/Guard.lean ====
section
/-! DEFINITION. The timeout-deadline guard and the polls: the commands of spec/42_guard.md R184 to R188. -/

namespace Sys2Proof.Machine

open Sys2Proof

/-- GUARD_ARM (R184). -/
def execGuardArm (s : State) : Host.Outcome State Fault Refusal := compute (.ok (armLines s)) s

/-- GUARD_CHECK (R185): an expired deadline sets DID_TIMEOUT and is reported in RES0, not as an error. -/
def execGuardCheck (s : State) : Host.Outcome State Fault Refusal :=
  compute (.ok (if expired s then [.didTimeout, .res 0 1] else [.res 0 0])) s

/-- TIMEOUT_OCCURRED (R186). -/
def execTimeoutOccurred (s : State) : Host.Outcome State Fault Refusal := compute (.ok [.takeTimeout]) s

/-- What a poll does with the byte it read: the predicate first, then the deadline on the present tick, then again (R187, R304).
On expiry DID_TIMEOUT and the sentinel are written before TIMEOUT is raised (R187, 60_exceptions.md R256). -/
def pollReply (hit : Bool) (v : Word) (s : State) : State :=
  if hit then emit [.res 0 v] (.finish .none) s
  else if expired s then emit [.didTimeout, .res 0 0xFFFF] (.finish .timeout) s
  else setPos (.lines [] .loop) s

/-- The poll primitive: arm, then read, test and check until one of them ends it (R187); it may run for ever (R189). -/
def poll (reg : Byte) (hit : Word → Bool) (s : State) : Host.Outcome State Fault Refusal :=
  turn s (emit (armLines s) .loop s) (issue (.read s.devAddr reg .one) s) (fun _ v t => pollReply (hit v) v t)

/-- POLL.NZ (R187): until a masked bit is set. -/
def execPollNz (reg mask : Byte) (s : State) : Host.Outcome State Fault Refusal :=
  poll reg (fun v => v &&& zext mask != 0) s

/-- POLL.Z (R188): until the masked bits are all clear. -/
def execPollZ (reg mask : Byte) (s : State) : Host.Outcome State Fault Refusal :=
  poll reg (fun v => v &&& zext mask == 0) s

end Sys2Proof.Machine
end

