-- ==== Sys2Proof/Machine/Sequencer.lean ====
section
/-! DEFINITION. The register-bank sequencer and transport commands (spec/41_sequencer.md R150 to R160). -/

namespace Sys2Proof.Machine

open Sys2Proof

/-- RD8 (R151). -/
def execRd8 (reg : Byte) (s : State) : Host.Outcome State Fault Refusal :=
  access (.read s.devAddr reg .one) (fun _ v => [.res 0 v]) s

/-- RD8.CAP (R152). -/
def execRd8Cap (reg : Byte) (s : State) : Host.Outcome State Fault Refusal :=
  access (.read s.devAddr reg .one) (fun _ v => [.res 0 v, .stopVar (v.setWidth 8), .stopValid]) s

/-- RD16 (R153). -/
def execRd16 (reg : Byte) (s : State) : Host.Outcome State Fault Refusal :=
  access (.read s.devAddr reg .two) (fun _ v => [.res 0 v]) s

/-- RD32 (R154). -/
def execRd32 (reg : Byte) (s : State) : Host.Outcome State Fault Refusal :=
  access (.read s.devAddr reg .four) (fun _ v => [.res 0 v]) s

/-- WR8 (R155). -/
def execWr8 (reg imm : Byte) (s : State) : Host.Outcome State Fault Refusal :=
  access (.write s.devAddr reg .one (zext imm)) (fun r _ => shadowLines r) s

/-- WR8.SV (R156): ILLEGAL while STOP_VALID = 0, the last of the decode checks (30_encoding.md R92 step 5). -/
def execWr8Sv (reg : Byte) (s : State) : Host.Outcome State Fault Refusal :=
  turn s
    (if s.stopValid then issue (.write s.devAddr reg .one (zext s.stopVar)) s else complete .illegal s)
    s (fun r _ t => emit (shadowLines r) (.finish .none) t)

/-- WR16 (R157): RANGE for an ARG0 wider than 16 bits, before any request. -/
def execWr16 (reg : Byte) (s : State) : Host.Outcome State Fault Refusal :=
  turn s
    (if fits s.arg.r0 16 then issue (.write s.devAddr reg .two s.arg.r0) s else complete .range s)
    s (fun _ _ t => emit [] (.finish .none) t)

/-- WR32 (R158). -/
def execWr32 (reg : Byte) (s : State) : Host.Outcome State Fault Refusal :=
  access (.write s.devAddr reg .four s.arg.r0) (fun _ _ => []) s

/-- The head of SEQ_RUN's loop: the next entry's write while SEQ_PC < P_TUNING_LEN, else its last lines (R159). -/
def seqLoop (s : State) : State :=
  match s.tuning[s.seqPc.toNat]? with
  | some (reg, b) => issue (.write s.devAddr reg .one (zext b)) s
  | none => emit [.cfgValid true, .res 0 (word s.tuning.length)] (.finish .none) s

/-- SEQ_RUN (R159). -/
def execSeqRun (s : State) : Host.Outcome State Fault Refusal :=
  turn s (emit [.cfgValid false, .seqPc 0] .loop s) (seqLoop s)
    (fun r _ t => emit (shadowLines r ++ [.seqPc (t.seqPc + 1)]) .loop t)

/-- SET_ADDR (R160): the new address, masked to 7 bits, goes to the old address's device; DEV_ADDR changes only after an Ok. -/
def execSetAddr (reg addr : Byte) (s : State) : Host.Outcome State Fault Refusal :=
  access (.write s.devAddr reg .one (zext (addr &&& 0x7F))) (fun _ _ => [.devAddr (addr.setWidth 7)]) s

end Sys2Proof.Machine
end

