-- ==== Sys2Proof/Machine/Dispatch.lean ====
section
/-! DEFINITION. One arm per command: the engine's turn in that command. -/

namespace Sys2Proof.Machine

open Sys2Proof

def exec (i : Instr) (s : State) : Host.Outcome State Fault Refusal :=
  match i with
  | .decTimeout => Sys2Proof.Machine.execDecTimeout s
  | .encTimeout => Sys2Proof.Machine.execEncTimeout s
  | .macroPeriod => Sys2Proof.Machine.execMacroPeriod s
  | .mclkToUs => Sys2Proof.Machine.execMclkToUs s
  | .usToMclk => Sys2Proof.Machine.execUsToMclk s
  | .seqDecode => Sys2Proof.Machine.execSeqDecode s
  | .vcselDec => Sys2Proof.Machine.execVcselDec s
  | .vcselEncPre => Sys2Proof.Machine.execVcselEncPre s
  | .vcselEncFinal => Sys2Proof.Machine.execVcselEncFinal s
  | .stepTimeouts => Sys2Proof.Machine.execStepTimeouts s
  | .budgetGet => Sys2Proof.Machine.execBudgetGet s
  | .budgetSet => Sys2Proof.Machine.execBudgetSet s
  | .srlEnc => Sys2Proof.Machine.execSrlEnc s
  | .srlDec => Sys2Proof.Machine.execSrlDec s
  | .guardArm => Sys2Proof.Machine.execGuardArm s
  | .guardCheck => Sys2Proof.Machine.execGuardCheck s
  | .timeoutOccurred => Sys2Proof.Machine.execTimeoutOccurred s
  | .rd8 reg => Sys2Proof.Machine.execRd8 reg s
  | .rd8Cap reg => Sys2Proof.Machine.execRd8Cap reg s
  | .rd16 reg => Sys2Proof.Machine.execRd16 reg s
  | .rd32 reg => Sys2Proof.Machine.execRd32 reg s
  | .wr8 reg imm => Sys2Proof.Machine.execWr8 reg imm s
  | .wr8Sv reg => Sys2Proof.Machine.execWr8Sv reg s
  | .wr16 reg => Sys2Proof.Machine.execWr16 reg s
  | .wr32 reg => Sys2Proof.Machine.execWr32 reg s
  | .pollNz reg mask => Sys2Proof.Machine.execPollNz reg mask s
  | .pollZ reg mask => Sys2Proof.Machine.execPollZ reg mask s
  | .seqRun => Sys2Proof.Machine.execSeqRun s
  | .setAddr reg addr => Sys2Proof.Machine.execSetAddr reg addr s

end Sys2Proof.Machine
end

