-- ==== Sys2Proof/Machine/HostCsr.lean ====
section
/-! DEFINITION. The CSR window as the host reaches it: the map (spec/10_state.md R25), what a read returns (R27 to R37, R46) and
what a write does, idle and busy (R26, R41). -/

namespace Sys2Proof.Machine

open Sys2Proof

/-- The registers of the CSR window (R25). -/
inductive Csr where
  | cmd
  | status
  | arg (i : Fin 6)
  | res (i : Fin 6)
  | ioTimeout
  | deadlineLo
  | deadlineHi
  | devAddr
  | bank
  | stopVar
  | budgetUs
  | seqPc
  | seqLen
  | reserved
deriving DecidableEq, Repr

/-- R25's map from word index (byte offset / 4) to register; 0x5C to 0xFC are reserved. -/
def Csr.ofIndex : Nat → Csr
  | 0 => .cmd
  | 1 => .status
  | 2 => .arg 0
  | 3 => .arg 1
  | 4 => .arg 2
  | 5 => .arg 3
  | 6 => .arg 4
  | 7 => .arg 5
  | 8 => .res 0
  | 9 => .res 1
  | 10 => .res 2
  | 11 => .res 3
  | 12 => .res 4
  | 13 => .res 5
  | 14 => .ioTimeout
  | 15 => .deadlineLo
  | 16 => .deadlineHi
  | 17 => .devAddr
  | 18 => .bank
  | 19 => .stopVar
  | 20 => .budgetUs
  | 21 => .seqPc
  | 22 => .seqLen
  | _ => .reserved

/-- What a CSR reads as; a read changes nothing (R46). CMD and reserved offsets read 0 (R26, R37). -/
def Csr.read (c : Csr) (s : State) : Word :=
  match c with
  | .cmd => 0
  | .status => s.statusWord
  | .arg i => s.arg.get i
  | .res i => s.res.get i
  | .ioTimeout => s.ioTimeout
  | .deadlineLo => s.deadline.extractLsb' 0 32
  | .deadlineHi => s.deadline.extractLsb' 32 32
  | .devAddr => s.devAddr.setWidth 32
  | .bank => zext s.bank
  | .stopVar => zext s.stopVar
  | .budgetUs => s.budgetUs
  | .seqPc => s.seqPc.setWidth 32
  | .seqLen => (BitVec.ofNat 16 s.tuning.length).setWidth 32
  | .reserved => 0

/-- A host write that a running command drops: it sets OVERRUN (R41). -/
def unlessBusy (s written : State) : State := if s.busy then { s with overrun := true } else written

/-- A host write of `w` (R25's access types; R26, R27, R31, R35, R41). -/
def Csr.write (c : Csr) (w : Word) (s : State) : State :=
  match c with
  | .cmd => unlessBusy s (startCommand w s)
  | .status => { s with overrun := s.overrun && !w.getLsbD 8 }
  | .arg i => unlessBusy s { s with arg := s.arg.set i w }
  | .ioTimeout => unlessBusy s { s with ioTimeout := w }
  | .devAddr => unlessBusy s { s with devAddr := w.setWidth 7 }
  | .stopVar => unlessBusy s { s with stopVar := w.setWidth 8, stopValid := true }
  | .res _ | .deadlineLo | .deadlineHi | .bank | .budgetUs | .seqPc | .seqLen | .reserved => s

/-- One host access: refused unless it is an aligned word, a fault outside the window (20_memory.md R68, R60). -/
def hostAccess (a : Access) (s : State) : Host.Outcome State Fault Refusal :=
  if a.bytes ≠ 4 ∨ a.offset % 4 ≠ 0 then .refused .csrAccessShape
  else if 0x100 ≤ a.offset then .fault .csrOutsideWindow
  else
    match a.data with
    | none => .next { s with readData := (Csr.ofIndex (a.offset / 4)).read s }
    | some w => .next ((Csr.ofIndex (a.offset / 4)).write w s)

end Sys2Proof.Machine
end

