-- ==== Sys2Proof/Machine/Agents.lean ====
section
/-! DEFINITION. One step of each agent (spec/10_state.md R20), and the draw of the event that follows it (log 1). -/

namespace Sys2Proof.Machine

open Sys2Proof

/-- The engine's turn: idle, nothing happens; else CUR_CMD is decoded and its command goes on, or ends as ILLEGAL with no other
effect (30_encoding.md R92, R93; 60_exceptions.md R251). -/
def engineTurn (s : State) : Host.Outcome State Fault Refusal :=
  match s.engine with
  | .idle => .next s
  | .running cmd _ =>
    match decode cmd with
    | .ok i => exec i s
    | .error _ => .next (complete .illegal s)

/-- The next event is drawn: a free value (log 1). -/
def drawNext (s : State) : State := { s with next := Config.nextEvent s.draws, draws := s.draws + 1 }

/-- After every step that goes on, the next event is drawn. -/
def thenDraw (o : Host.Outcome State Fault Refusal) : Host.Outcome State Fault Refusal :=
  match o with
  | .next s => .next (drawNext s)
  | .fault f => .fault f
  | .refused r => .refused r

/-- One event's effect on the block and its surroundings. -/
def perform (e : Event) (s : State) : Host.Outcome State Fault Refusal :=
  match e with
  | .engine => engineTurn s
  | .host a => hostAccess a s
  | .transport a => .next (transportAnswers a s)
  | .wire k free => .next (transfersByte k.val free s)
  | .tick t => .next (tickMoves t s)
  | .sensor bank reg v => .next (sensorChanges bank reg v s)
  | .reset took t => .next (resetBlock took t s)

/-- The state in which a table row's word has just been written to CMD of an idle block and the engine's turn is next (log 14). -/
def placeCommand (nbits w : Nat) (s : State) : State :=
  { startCommand (tableWord nbits w) s with bus := .idle, next := .engine }

end Sys2Proof.Machine
end

