-- ==== Sys2Proof/Machine/Step.lean ====
section
/-! DEFINITION. One step of the machine: the event that `next` holds, then the next draw. -/

namespace Sys2Proof.Machine

open Sys2Proof

/-- One step (spec/10_state.md R20: one step per agent; spec/70_reset_and_hazards.md R303). -/
def step (s : State) : Host.Outcome State Fault Refusal := thenDraw (perform s.next s)

/-- The instruction word stands where the engine's next turn runs it: CMD has just been written (log 14). -/
def State.withFetchWord (s : State) (nbits w : Nat) : State := placeCommand nbits w s

end Sys2Proof.Machine
end

