-- ==== Sys2Proof/Machine/HostProgram.lean ====
section
/-! DEFINITION. Host programs as CSR accesses: the statements and pseudo-instructions of spec/30_encoding.md R99 and R100, and the
host programs of spec/70_reset_and_hazards.md R291, R292, R294, R296, R299, R300 and R301, over the symbols of R285. They are host software: the block sees only
their accesses. -/

namespace Sys2Proof.Machine

open Sys2Proof

/-- The byte offset of a CSR (10_state.md R25); the first of the reserved ones stands for all. -/
def Csr.offset : Csr → Nat
  | .cmd => 0x00
  | .status => 0x04
  | .arg i => 0x08 + 4 * i.val
  | .res i => 0x20 + 4 * i.val
  | .ioTimeout => 0x38
  | .deadlineLo => 0x3C
  | .deadlineHi => 0x40
  | .devAddr => 0x44
  | .bank => 0x48
  | .stopVar => 0x4C
  | .budgetUs => 0x50
  | .seqPc => 0x54
  | .seqLen => 0x58
  | .reserved => 0x5C

/-- `csrw NAME, value` (R99). -/
def csrw (c : Csr) (v : Word) : Access := { offset := c.offset, bytes := 4, data := some v }

/-- `csrr NAME` (R99). -/
def csrr (c : Csr) : Access := { offset := c.offset, bytes := 4, data := none }

/-- WAIT's loop repeats its access, `csrr STATUS`, while the word it returned has BUSY = 1 (R100). -/
def waitRepeats (status : Word) : Bool := status.getLsbD 0

/-- A host program that ends with an `α`: its next statement, and how it goes on from the word that one returned (R99). -/
inductive HostProg (α : Type) where
  | done (a : α)
  | write (c : Csr) (v : Word) (rest : HostProg α)
  | read (c : Csr) (rest : Word → HostProg α)
  /-- WAIT; it ends with the STATUS word of the completed command (R100). -/
  | wait (rest : Word → HostProg α)

/-- Why a host program stops early: a command ended with this ERR (R291), or the identity check failed (R291 step 3; log 19). -/
inductive HostError where
  | command (err : Nat)
  | identity
deriving DecidableEq, Repr

/-- One program after another. -/
def HostProg.andThen {α β : Type} : HostProg α → (α → HostProg β) → HostProg β
  | .done a, k => k a
  | .write c v rest, k => .write c v (rest.andThen k)
  | .read c rest, k => .read c fun w => (rest w).andThen k
  | .wait rest, k => .wait fun w => (rest w).andThen k

/-- The host's next access, and the program that is left; a program that has ended makes none. -/
def HostProg.hostTurn {α : Type} (p : HostProg α) (s : State) : Host.Outcome (HostProg α × State) Fault Refusal :=
  match p with
  | .done a => .next (.done a, s)
  | .write c v rest =>
    match hostAccess (csrw c v) s with
    | .next t => .next (rest, t)
    | .fault f => .fault f
    | .refused r => .refused r
  | .read c rest =>
    match hostAccess (csrr c) s with
    | .next t => .next (rest t.readData, t)
    | .fault f => .fault f
    | .refused r => .refused r
  | .wait rest =>
    match hostAccess (csrr .status) s with
    | .next t => .next (if waitRepeats t.readData then .wait rest else rest t.readData, t)
    | .fault f => .fault f
    | .refused r => .refused r

/-- A program that may stop early (R291: the host "stops at the first error"). -/
abbrev Checked (α : Type) := HostProg (Except HostError α)

/-- The next part of a program, which runs only if the part before it did not stop. -/
def Checked.next {α β : Type} (p : Checked α) (k : α → Checked β) : Checked β :=
  p.andThen fun r =>
    match r with
    | .ok a => k a
    | .error e => .done (.error e)

/-- STATUS.ERR of a STATUS word (10_state.md R27). -/
def statusErr (status : Word) : Nat := field status 4 4

/-- `ISSUE C`: the command word goes to CMD (R100). -/
def issueStatement {α : Type} (i : Instr) (rest : HostProg α) : HostProg α := .write .cmd (encode i) rest

/-- A command statement: ISSUE, then WAIT; `ERR = 0` is success (R100). -/
def command (i : Instr) : Checked Unit :=
  issueStatement i (.wait fun status =>
    .done (if statusErr status = 0 then .ok () else .error (.command (statusErr status))))

/-- `csrw NAME, value` as a part of a program. -/
def setCsr (c : Csr) (v : Word) : Checked Unit := .write c v (.done (.ok ()))

/-- `csrr NAME` as a part of a program. -/
def getCsr (c : Csr) : Checked Word := .read c fun w => .done (.ok w)

/-- A command whose RES0 the host takes. -/
def commandResult (i : Instr) : Checked Word := (command i).next fun _ => getCsr (.res 0)

/-- `RMW8 reg, #clear, #set` (R100): `b = (RES0 & ~clear) | set`. -/
def rmw8 (reg clear set : Byte) : Checked Unit :=
  (commandResult (.rd8 reg)).next fun v => command (.wr8 reg ((v.setWidth 8 &&& ~~~clear) ||| set))

/-- WR8 statements in a row. -/
def writeBytes : List (Byte × Byte) → Checked Unit
  | [] => .done (.ok ())
  | (reg, b) :: rest => (command (.wr8 reg b)).next fun _ => writeBytes rest

/-- What the spec leaves open of a stop-variable sequence besides `R_SV_BANK`: its two `...` and the bank it restores (R285, R291 step 4,
R300). DESIGN CHOICE (log 17): what stands for a `...` is a list of WR8 statements, any one. -/
structure StopSequence where
  enter : List (Byte × Byte)
  leave : List (Byte × Byte)
  home : Byte
deriving DecidableEq, Repr

/-- The symbols of R285: sensor registers by role and the bytes the programs write. None has a value in the spec. The capture of R291
step 4 and the restore of R300 each have their own open part. -/
structure Symbols where
  rId : Byte
  identity : Byte
  rVolt : Byte
  voltBit : Byte
  rSv : Byte
  rSvBank : Byte
  capture : StopSequence
  restore : StopSequence
  rMsrcCfg : Byte
  rFinalSrl : Byte
  rSeqCfg : Byte
  rVcselPre : Byte
  rVcselFinal : Byte
  rMsrcTo : Byte
  rPreTo : Byte
  rFinalTo : Byte
  rStart : Byte
  rIntStatus : Byte
  rIntClear : Byte
  rResult : Byte
  rAddr : Byte
  vStart : Byte
  vVhvInit : Byte
  vPhaseInit : Byte
  vSeqVhv : Byte
  vSeqPhase : Byte
  vSeqAll : Byte
  vSeqNarrow : Byte
  vMsrcBits : Byte
  vClear : Byte
deriving DecidableEq, Repr

/-- The bank switch, one command, and the bank restored (R291 step 4, R300). The spec leaves the two `...` open: WR8 statements that
`q` lists, the model's choice (DESIGN CHOICE, log 17). -/
def inStopBank (y : Symbols) (q : StopSequence) (i : Instr) : Checked Unit :=
  (command (.wr8 0xFF y.rSvBank)).next fun _ =>
  (writeBytes q.enter).next fun _ =>
  (command i).next fun _ =>
  (writeBytes q.leave).next fun _ =>
  command (.wr8 0xFF q.home)

/-- The host's notes of a readout: the enables' byte and what STEP_TIMEOUTS returned (R292). -/
structure Readout where
  seq : Word
  res0 : Word
  msrcUs : Word
  preMclks : Word
  preUs : Word
  finUs : Word
deriving DecidableEq, Repr

/-- R292's readout, steps 1 and 2: six reads, their values packed as STEP_TIMEOUTS requires, and that command. -/
def stepReadout (y : Symbols) : Checked Readout :=
  (commandResult (.rd8 y.rSeqCfg)).next fun seq =>
  (commandResult (.rd8 y.rVcselPre)).next fun pre =>
  (commandResult (.rd8 y.rVcselFinal)).next fun fin =>
  (commandResult (.rd8 y.rMsrcTo)).next fun msrc =>
  (commandResult (.rd16 y.rPreTo)).next fun preTo =>
  (commandResult (.rd16 y.rFinalTo)).next fun finTo =>
  (setCsr (.arg 0) (word (msrc.toNat * 2 ^ 24 + fin.toNat * 2 ^ 16 + pre.toNat * 2 ^ 8 + seq.toNat))).next fun _ =>
  (setCsr (.arg 1) (word (finTo.toNat * 2 ^ 16 + preTo.toNat))).next fun _ =>
  (command .stepTimeouts).next fun _ =>
  (getCsr (.res 0)).next fun res0 =>
  (getCsr (.res 1)).next fun msrcUs =>
  (getCsr (.res 2)).next fun preMclks =>
  (getCsr (.res 3)).next fun preUs =>
  (getCsr (.res 5)).next fun finUs =>
  .done (.ok { seq := seq, res0 := res0, msrcUs := msrcUs, preMclks := preMclks, preUs := preUs, finUs := finUs })

/-- R292's readout: it ends with BUDGET_US. -/
def budgetReadout (y : Symbols) : Checked Word :=
  (stepReadout y).next fun r =>
  (setCsr (.arg 0) r.seq).next fun _ =>
  (setCsr (.arg 1) r.msrcUs).next fun _ =>
  (setCsr (.arg 2) r.preUs).next fun _ =>
  (setCsr (.arg 3) r.finUs).next fun _ =>
  (command .budgetGet).next fun _ =>
  getCsr .budgetUs

/-- R292's apply with budget `b`: the final-range value is written where BUDGET_SET allotted one. -/
def budgetApply (y : Symbols) (b : Word) : Checked Unit :=
  (stepReadout y).next fun r =>
  (setCsr (.arg 0) (word (field r.res0 8 8 * 2 ^ 8 + r.seq.toNat))).next fun _ =>
  (setCsr (.arg 1) r.msrcUs).next fun _ =>
  (setCsr (.arg 2) r.preUs).next fun _ =>
  (setCsr (.arg 3) r.preMclks).next fun _ =>
  (setCsr (.arg 4) b).next fun _ =>
  (command .budgetSet).next fun _ =>
  (getCsr (.res 3)).next fun allotted =>
  if allotted = 1 then
    (getCsr (.res 0)).next fun v =>
    (setCsr (.arg 0) v).next fun _ =>
    command (.wr16 y.rFinalTo)
  else .done (.ok ())

/-- R294's calibration pass; on TIMEOUT it stops "without further writes". -/
def calibrationPass (y : Symbols) (initByte : Byte) : Checked Unit :=
  (command (.wr8 y.rStart (y.vStart ||| initByte))).next fun _ =>
  (command (.pollNz y.rIntStatus 0x07)).next fun _ =>
  (command (.wr8 y.rIntClear y.vClear)).next fun _ =>
  command (.wr8 y.rStart 0x00)

/-- The phase calibration, and then `R_SEQ_CFG` restored to `seq` (R291 steps 13 and 14, R296 step 4). -/
def phaseCalibration (y : Symbols) (seq : Byte) : Checked Unit :=
  (command (.wr8 y.rSeqCfg y.vSeqPhase)).next fun _ =>
  (calibrationPass y y.vPhaseInit).next fun _ =>
  command (.wr8 y.rSeqCfg seq)

/-- Steps 4 to 14 of R291's boot program, and with them R299's re-initialization after a TRANSPORT: "the boot program from step 4", so
SEQ_RUN starts again at entry 0. -/
def initialization (y : Symbols) : Checked Unit :=
  (inStopBank y y.capture (.rd8Cap y.rSv)).next fun _ =>
  (command .seqRun).next fun _ =>
  (rmw8 y.rMsrcCfg 0 y.vMsrcBits).next fun _ =>
  (setCsr (.arg 0) 0x3E800000).next fun _ =>
  (commandResult .srlEnc).next fun q =>
  (setCsr (.arg 0) q).next fun _ =>
  (command (.wr16 y.rFinalSrl)).next fun _ =>
  (command (.wr8 y.rSeqCfg y.vSeqAll)).next fun _ =>
  (budgetReadout y).next fun b =>
  (command (.wr8 y.rSeqCfg y.vSeqNarrow)).next fun _ =>
  (budgetApply y b).next fun _ =>
  (command (.wr8 y.rSeqCfg y.vSeqVhv)).next fun _ =>
  (calibrationPass y y.vVhvInit).next fun _ =>
  phaseCalibration y y.vSeqNarrow

/-- R291 step 3: the host reads the identity register and compares. That a mismatch ends the program, before any later step, is the model's
choice (DESIGN CHOICE, log 19): the spec says only that the host compares and "reports the mismatch itself" (60_exceptions.md R250). -/
def identityCheck (y : Symbols) : Checked Unit :=
  (commandResult (.rd8 y.rId)).next fun ident =>
  if ident = zext y.identity then .done (.ok ()) else .done (.error .identity)

/-- R291's boot program, step by step; `io2v8` asks for the I/O-voltage mode, `checkId` for the identity check, which is optional
(93_implementation_defined.md G9). Where it is made and finds another value, the program ends there: the model's choice (log 19). -/
def bootProgram (y : Symbols) (addr timeoutMs : Word) (io2v8 checkId : Bool) : Checked Unit :=
  (setCsr .devAddr addr).next fun _ =>
  (setCsr .ioTimeout timeoutMs).next fun _ =>
  (if io2v8 then rmw8 y.rVolt 0 y.voltBit else .done (.ok ())).next fun _ =>
  (if checkId then identityCheck y else .done (.ok ())).next fun _ =>
  initialization y

/-- Which of the two VCSEL periods a change is of: its encode command, its period register and its 16-bit timeout register (R285). -/
inductive VcselRange where
  | pre
  | final
deriving DecidableEq, Repr

/-- The command that validates and encodes a period (R296). -/
def VcselRange.encode : VcselRange → Instr
  | .pre => .vcselEncPre
  | .final => .vcselEncFinal

/-- `R_VCSEL_PRE` or `R_VCSEL_FINAL` (R285). -/
def VcselRange.periodReg (y : Symbols) : VcselRange → Byte
  | .pre => y.rVcselPre
  | .final => y.rVcselFinal

/-- `R_PRE_TO` or `R_FINAL_TO`: the register R296 step 2 writes with WR16 (log 18). -/
def VcselRange.timeoutReg (y : Symbols) : VcselRange → Byte
  | .pre => y.rPreTo
  | .final => y.rFinalTo

/-- The range's timeout in µs, as read out under the old period. -/
def VcselRange.oldUs (k : VcselRange) (r : Readout) : Word :=
  match k with
  | .pre => r.preUs
  | .final => r.finUs

/-- The MCLKs the range's timeout register counts besides its own: the final-range register contains the pre-range count while the
pre-range step is enabled (43_config_arith.md R213, R295). -/
def VcselRange.shared (k : VcselRange) (r : Readout) : Nat :=
  match k with
  | .pre => 0
  | .final => preShare (seqEnables Config.seqBits r.seq.toNat) r.preMclks.toNat

/-- R296 step 2: the range's timeout, which lasted `oldUs` of the readout `r`, re-encoded for the new period. -/
def reencodeTimeout (y : Symbols) (k : VcselRange) (period : Word) (r : Readout) : Checked Unit :=
  (setCsr (.arg 0) (k.oldUs r)).next fun _ =>
  (setCsr (.arg 1) period).next fun _ =>
  (commandResult .usToMclk).next fun mclks =>
  (setCsr (.arg 0) (word (mclks.toNat + k.shared r))).next fun _ =>
  (commandResult .encTimeout).next fun code =>
  (setCsr (.arg 0) code).next fun _ =>
  command (.wr16 (k.timeoutReg y))

/-- R296's VCSEL period change to `period` PCLKs, in its four steps. The readout that comes before them gives step 2 the timeouts under
the old period and step 4 the `R_SEQ_CFG` to restore: the model's choice (DESIGN CHOICE, log 18). -/
def vcselPeriodChange (y : Symbols) (k : VcselRange) (period : Word) : Checked Unit :=
  (getCsr .budgetUs).next fun budget =>
  (stepReadout y).next fun r =>
  (setCsr (.arg 0) period).next fun _ =>
  (commandResult k.encode).next fun code =>
  (command (.wr8 (k.periodReg y) (code.setWidth 8))).next fun _ =>
  (reencodeTimeout y k period r).next fun _ =>
  (budgetApply y budget).next fun _ =>
  phaseCalibration y (r.seq.setWidth 8)

/-- R301's address change: an Ok moves every later request to address `n`. -/
def addressChange (y : Symbols) (n : Byte) : Checked Unit := command (.setAddr y.rAddr n)

/-- What follows a poll in R300: on TIMEOUT (ERR = 6) the program returns 65535. -/
def orSentinel (p : Checked Unit) (rest : Checked Word) : Checked Word :=
  p.andThen fun r =>
    match r with
    | .ok _ => rest
    | .error e => .done (if e = .command 6 then .ok 65535 else .error e)

/-- R300's continuous read. -/
def continuousRead (y : Symbols) : Checked Word :=
  orSentinel (command (.pollNz y.rIntStatus 0x07))
    ((commandResult (.rd16 y.rResult)).next fun range =>
     (command (.wr8 y.rIntClear y.vClear)).next fun _ => .done (.ok range))

/-- R300's single-shot read: the restore sequence, the start, the poll until the start bit clears, then the continuous read. -/
def singleShotRead (y : Symbols) : Checked Word :=
  (inStopBank y y.restore (.wr8Sv y.rSv)).next fun _ =>
  (command (.wr8 y.rStart y.vStart)).next fun _ =>
  orSentinel (command (.pollZ y.rStart y.vStart)) (continuousRead y)

end Sys2Proof.Machine
end

