-- ==== Sys2Proof/Safety.lean ====
section
/-! DEFINITION. The terms the statements use: several turns of the engine, runs with given answers, which command writes what, the invariants of a run, and the rational value of a binary32 pattern. -/

namespace Sys2Proof.Machine

open Sys2Proof

/-- `n` turns of the engine in command `i`, no other agent moving in between. -/
def execTimes : Nat → Instr → State → Host.Outcome State Fault Refusal
  | 0, _, s => .next s
  | n + 1, i, s =>
    match exec i s with
    | .next t => execTimes n i t
    | .fault f => .fault f
    | .refused r => .refused r

/-- The command ends in this turn with error `e`, and nothing but STATUS changes (60_exceptions.md R258). -/
def Raises (i : Instr) (s : State) (e : ErrCode) : Prop :=
  exec i s = .next { s with err := e, done := true, engine := .idle }

/-- The command writes `v`, which fits the register, to RES0 in this turn, ends without error in the next, and changes nothing else. -/
def WritesRes0 (i : Instr) (s : State) (cmd : Word) (v : Nat) : Prop :=
  v < 2 ^ 32 ∧
  exec i s = .next { s with res := { s.res with r0 := word v }, engine := .running cmd (.lines [] (.finish .none)) } ∧
  execTimes 2 i s = .next { s with res := { s.res with r0 := word v }, err := .none, done := true, engine := .idle }

/-- The command issues request `r` in this turn and changes nothing else. -/
def Issues (i : Instr) (s : State) (cmd : Word) (r : Request) : Prop :=
  exec i s = .next { s with bus := .pending r .none, engine := .running cmd .await }

/-- The command ends in this turn as TRANSPORT for the failed request `r`: CFG_VALID <- 0, BANK_VALID <- 0 where `r` was a WRITE to
register 0xFF, and nothing else changes (60_exceptions.md R253). -/
def RaisesTransport (i : Instr) (s : State) (r : Request) : Prop :=
  exec i s = .next
    { s with bus := .idle, cfgValid := false,
             bankValid := (match r with
               | .read _ _ _ => s.bankValid
               | .write _ reg _ _ => s.bankValid && reg != 0xFF#8),
             err := .transport, done := true, engine := .idle }

/-- The command word of `i` is `n`; it decodes to `i` where `legal` holds, and is ILLEGAL for its register where it does not
(30_encoding.md R90, R94, R97). -/
def EncodedAs (i : Instr) (n : Nat) (legal : Prop) : Prop :=
  (encode i).toNat = n ∧ (legal → decode (encode i) = .ok i) ∧ (¬ legal → decode (encode i) = .error .registerRange)

/-- One turn of the engine in command `i`, then an Ok answer if a request is out. -/
def okRound (i : Instr) (s : State) : State :=
  match exec i s with
  | .next t => transportAnswers (.ok 0) t
  | .fault _ => s
  | .refused _ => s

/-- `n` such rounds: a run in which the transport answers every request Ok. -/
def okRounds : Nat → Instr → State → State
  | 0, _, s => s
  | n + 1, i, s => okRounds n i (okRound i s)

/-- The request that one turn of the engine in command `i` issues, if it issues one. -/
def issued (i : Instr) (s : State) : List Request :=
  match exec i s with
  | .next t =>
    match t.bus with
    | .pending r _ => if s.bus = t.bus then [] else [r]
    | .idle => []
    | .answered _ _ => []
  | .fault _ => []
  | .refused _ => []

/-- The requests issued in `n` rounds of `okRounds`, in their order. -/
def okRequests : Nat → Instr → State → List Request
  | 0, _, _ => []
  | n + 1, i, s => issued i s ++ okRequests n i (okRound i s)

/-- The engine issues a read, receives `v`, and takes the turn that follows. -/
def readRound (i : Instr) (v : Word) (s : State) : State :=
  match exec i s with
  | .next t =>
    match t.bus with
    | .pending r _ =>
      match exec i { t with bus := .answered r (.ok v) } with
      | .next u => u
      | .fault _ => t
      | .refused _ => t
    | .idle => t
    | .answered _ _ => t
  | .fault _ => s
  | .refused _ => s

/-- From `s` to `t` the sensor is as it was. -/
def SensorUntouched (s t : State) : Prop :=
  t.sensor = s.sensor ∧ t.sensorBank = s.sensorBank ∧ t.sensorAddr = s.sensorAddr

/-- From `s` to `t` the sensor took of a WRITE of `n` bytes at register `reg` exactly the bytes `took` names, byte 0 the most significant
(20_memory.md R63, R65). Below register 0xFF each stands in its register of the current bank, and every other register and the bank are
as before; its bus address is the low 7 bits of the last taken byte at an address register, if one was taken there (41_sequencer.md R160).
A 1-byte write to 0xFF selects the bank if its byte was taken, and neither a register nor the bus address changes. -/
def TakesBytes (took : Nat → Bool) (reg : Byte) (n : Width) (v : Word) (s t : State) : Prop :=
  (reg.toNat + n.bytes ≤ 0xFF →
    t.sensorBank = s.sensorBank ∧
    (∀ k, k < n.bytes → (t.sensor.read (256 * s.sensorBank.toNat + reg.toNat + k)).toNat =
      if took k then v.toNat / 256 ^ (n.bytes - 1 - k) % 256
      else (s.sensor.read (256 * s.sensorBank.toNat + reg.toNat + k)).toNat) ∧
    (∀ a, (∀ k, k < n.bytes → a ≠ 256 * s.sensorBank.toNat + reg.toNat + k) → t.sensor.read a = s.sensor.read a) ∧
    ((∀ k, k < n.bytes → took k = true → Config.isAddrReg s.sensorBank (reg + BitVec.ofNat 8 k) = false) →
      t.sensorAddr = s.sensorAddr) ∧
    (∀ k, k < n.bytes → took k = true → Config.isAddrReg s.sensorBank (reg + BitVec.ofNat 8 k) = true →
      (∀ j, k < j → j < n.bytes → took j = true → Config.isAddrReg s.sensorBank (reg + BitVec.ofNat 8 j) = false) →
      t.sensorAddr.toNat = v.toNat / 256 ^ (n.bytes - 1 - k) % 128)) ∧
  (reg = 0xFF#8 → n = .one →
    t.sensor = s.sensor ∧ t.sensorAddr = s.sensorAddr ∧ t.sensorBank = if took 0 then v.setWidth 8 else s.sensorBank)

/-- The pieces of state that assignment lines write. The sticky flag has two: set, and taken by the clearing read. -/
inductive Place where
  | res (j : Fin 6)
  | budget
  | stopVar
  | stopValid
  | bank
  | bankValid
  | cfgValid
  | seqPc
  | devAddr
  | deadline
  | guardEn
  | timeoutSet
  | timeoutTaken
deriving DecidableEq, Repr

/-- What a line writes. -/
def Line.places : Line → List Place
  | .res j _ => [.res j]
  | .allRes _ => [.res 0, .res 1, .res 2, .res 3, .res 4, .res 5]
  | .budget _ => [.budget]
  | .stopVar _ => [.stopVar]
  | .stopValid => [.stopValid]
  | .bank _ => [.bank]
  | .bankValid => [.bankValid]
  | .cfgValid _ => [.cfgValid]
  | .seqPc _ => [.seqPc]
  | .devAddr _ => [.devAddr]
  | .deadline _ => [.deadline]
  | .guardEn _ => [.guardEn]
  | .didTimeout => [.timeoutSet]
  | .takeTimeout => [.res 0, .timeoutTaken]

end Sys2Proof.Machine

namespace Sys2Proof

open Sys2Proof.Machine

/-- "State written" of each command's rule, STATUS.BUSY, DONE and ERR aside (spec/40 to 43; 10_state.md R21 to R39). -/
def Instr.places : Instr → List Place
  | .decTimeout | .encTimeout | .macroPeriod | .mclkToUs | .usToMclk => [.res 0]
  | .seqDecode | .vcselDec | .vcselEncPre | .vcselEncFinal | .srlEnc | .srlDec => [.res 0]
  | .stepTimeouts => [.res 0, .res 1, .res 2, .res 3, .res 4, .res 5]
  | .budgetGet => [.res 0, .budget]
  | .budgetSet => [.res 0, .res 1, .res 2, .res 3, .budget]
  | .guardArm => [.deadline, .guardEn]
  | .guardCheck => [.res 0, .timeoutSet]
  | .timeoutOccurred => [.res 0, .timeoutTaken]
  | .rd8 _ | .rd16 _ | .rd32 _ => [.res 0]
  | .rd8Cap _ => [.res 0, .stopVar, .stopValid]
  | .wr8 reg _ | .wr8Sv reg => if reg = 0xFF#8 then [.bank, .bankValid] else []
  | .wr16 _ | .wr32 _ => []
  | .pollNz _ _ | .pollZ _ _ => [.deadline, .guardEn, .res 0, .timeoutSet]
  | .seqRun => [.seqPc, .bank, .bankValid, .cfgValid, .res 0]
  | .setAddr _ _ => [.devAddr]

/-- Whether an assignment line may stand in a command's pseudocode. -/
def Instr.writes (i : Instr) (l : Line) : Bool := l.places.all fun p => i.places.contains p

/-- What a command's pseudocode may go on with after assignment lines: every command may end without an error, a poll also as TIMEOUT
(42_guard.md R187, R188), and only the polls and SEQ_RUN have a loop (R187, R188, 41_sequencer.md R159). -/
def Instr.afters : Instr → List After
  | .decTimeout | .encTimeout | .macroPeriod | .mclkToUs | .usToMclk => [.finish .none]
  | .seqDecode | .vcselDec | .vcselEncPre | .vcselEncFinal | .srlEnc | .srlDec => [.finish .none]
  | .stepTimeouts | .budgetGet | .budgetSet | .guardArm | .guardCheck | .timeoutOccurred => [.finish .none]
  | .rd8 _ | .rd8Cap _ | .rd16 _ | .rd32 _ => [.finish .none]
  | .wr8 _ _ | .wr8Sv _ | .wr16 _ | .wr32 _ | .setAddr _ _ => [.finish .none]
  | .pollNz _ _ | .pollZ _ _ => [.finish .none, .finish .timeout, .loop]
  | .seqRun => [.finish .none, .loop]

/-- The request a command has out while it waits: exactly the one its pseudocode names (20_memory.md R71). -/
def Instr.request (i : Instr) (s : State) : Option Request :=
  match i with
  | .decTimeout | .encTimeout | .macroPeriod | .mclkToUs | .usToMclk => none
  | .seqDecode | .vcselDec | .vcselEncPre | .vcselEncFinal | .srlEnc | .srlDec => none
  | .stepTimeouts | .budgetGet | .budgetSet | .guardArm | .guardCheck | .timeoutOccurred => none
  | .rd8 reg => some (.read s.devAddr reg .one)
  | .rd8Cap reg => some (.read s.devAddr reg .one)
  | .rd16 reg => some (.read s.devAddr reg .two)
  | .rd32 reg => some (.read s.devAddr reg .four)
  | .pollNz reg _ => some (.read s.devAddr reg .one)
  | .pollZ reg _ => some (.read s.devAddr reg .one)
  | .wr8 reg imm => some (.write s.devAddr reg .one (zext imm))
  | .wr8Sv reg => some (.write s.devAddr reg .one (zext s.stopVar))
  | .wr16 reg => some (.write s.devAddr reg .two s.arg.r0)
  | .wr32 reg => some (.write s.devAddr reg .four s.arg.r0)
  | .seqRun => (s.tuning[s.seqPc.toNat]?).map fun e => .write s.devAddr e.1 .one (zext e.2)
  | .setAddr reg addr => some (.write s.devAddr reg .one (zext (addr &&& 0x7F)))

end Sys2Proof

namespace Sys2Proof.Machine

open Sys2Proof

/-- The request a port holds, answered or not. -/
def Bus.request : Bus → Option Request
  | .idle => none
  | .pending r _ => some r
  | .answered r _ => some r

/-- The engine and the port agree: an idle engine has no request out; a running one shows DONE = 0 and ERR = 0 (10_state.md R26,
R27), waits exactly for the request its command names (20_memory.md R71, R74), and has only its own command's lines left, before an end
or a loop that its command has. -/
def EngineCoherent (s : State) : Prop :=
  match s.engine with
  | .idle => s.bus = .idle
  | .running cmd pos =>
    s.done = false ∧ s.err = .none ∧
    match pos with
    | .start => s.bus = .idle
    | .await => ∃ i r, decode cmd = .ok i ∧ i.request s = some r ∧ s.bus.request = some r
    | .lines ws k =>
      s.bus = .idle ∧ ∃ i, decode cmd = .ok i ∧ k ∈ i.afters ∧ ∀ l ∈ ws, i.writes l = true

/-- SEQ_PC and every value about to be written to it stay within the table, whose length has 16 bits (10_state.md R33, R34). -/
def SeqPcInTable (s : State) : Prop :=
  s.tuning.length ≤ 65535 ∧ s.seqPc.toNat ≤ s.tuning.length ∧
  match s.engine with
  | .running _ (.lines ws _) => ∀ v, Line.seqPc v ∈ ws → v.toNat ≤ s.tuning.length
  | .running _ .start | .running _ .await | .idle => True

/-- The invariant of the command engine. -/
def EngineInv (s : State) : Prop := EngineCoherent s ∧ SeqPcInTable s

/-- BANK is what the sensor's bank is, where BANK_VALID says so (20_memory.md R66). -/
def ShadowAgrees (s : State) : Prop := s.bankValid = true → s.bank = s.sensorBank

/-- The bank shadow along a run: it agrees with SB except while a write to 0xFF has reached the sensor and `write_byte` has not yet
updated it (41_sequencer.md R150, 60_exceptions.md R253). -/
def ShadowInv (s : State) : Prop :=
  match s.engine with
  | .idle => ShadowAgrees s
  | .running _ .start => ShadowAgrees s
  | .running _ .await =>
    match s.bus with
    | .idle => ShadowAgrees s
    | .pending (.read _ _ _) _ => ShadowAgrees s
    | .pending (.write _ reg _ v) p =>
      if reg = 0xFF#8 ∧ p.b0 ≠ .none then v.setWidth 8 = s.sensorBank else ShadowAgrees s
    | .answered (.read _ _ _) _ => ShadowAgrees s
    | .answered (.write _ reg _ v) a =>
      if reg = 0xFF#8 then (∀ w, a = .ok w → v.setWidth 8 = s.sensorBank) else ShadowAgrees s
  | .running _ (.lines ws _) =>
    (∀ b, Line.bank b ∈ ws → b = s.sensorBank) ∧
    ((∀ b, Line.bank b ∉ ws) → (s.bankValid = true ∨ Line.bankValid ∈ ws) → s.bank = s.sensorBank)

/-- The magnitude of a finite binary32 pattern as a rational number (43_config_arith.md R216). -/
def binary32Magnitude (w : Word) : ℚ :=
  if field w 23 8 = 0 then (field w 0 23 : ℚ) * (2 : ℚ) ^ (-149 : ℤ)
  else ((2 : ℚ) ^ (23 : ℕ) + (field w 0 23 : ℚ)) * (2 : ℚ) ^ ((field w 23 8 : ℤ) - 150)

/-- The value of a finite binary32 pattern (43_config_arith.md R216). -/
def binary32Value (w : Word) : ℚ :=
  if w.getLsbD 31 then -binary32Magnitude w else binary32Magnitude w

end Sys2Proof.Machine
end

