-- ==== Sys2Proof/Certificates/Slice0/Obligations.lean ====
section
/-! DEFINITION. The statements for the provers. Each docstring names the rule of spec/ it formalises, or says what it derives. -/

open Sys2Proof Sys2Proof.Machine

/-! ## Encoding -/

/-- R101's words decode to the statements they stand for. -/
def Obligations.DecoderReadsTheExampleWords : Prop :=
  decode 0x00000001 = .ok .decTimeout ∧
  decode 0x0100000A = .ok .vcselEncFinal ∧
  decode 0x01009120 = .ok (.rd8Cap 0x91) ∧
  decode 0x0001FF24 = .ok (.wr8 0xFF 0x01) ∧
  decode 0x01009124 = .ok (.wr8Sv 0x91) ∧
  decode 0x00004425 = .ok (.wr16 0x44) ∧
  decode 0x00071328 = .ok (.pollNz 0x13 0x07) ∧
  decode 0x01010028 = .ok (.pollZ 0x00 0x01) ∧
  decode 0x00000029 = .ok .seqRun ∧
  decode 0x00308A2A = .ok (.setAddr 0x8A 0x30)

/-- Decode and encode agree: every well-formed command is read back from its word with every operand. Derived from R90, R91, R94, R95, R97. -/
def Obligations.DecodeReadsBackEveryEncodedCommand : Prop :=
  ∀ i : Instr, i.wf = true → decode (encode i) = .ok i

/-- A word that decodes is exactly the encoding of the well-formed command it names: no bit of a word is ignored, so every word names
one command or is ILLEGAL (R92's "Decoding is total"). -/
def Obligations.EveryLegalWordIsOneCommandsEncoding : Prop :=
  ∀ (w : Word) (i : Instr), decode w = .ok i → encode i = w ∧ i.wf = true

/-- The checks 1 to 4 of R92 in their order: each error names exactly the words whose first failing check it is. The opcodes are R94's
list; a word whose command does not use a field it sets encodes no command, and one with REG out of range encodes an ill-formed one. -/
def Obligations.DecodeChecksRunInTheirOrder : Prop :=
  ∀ w : Word,
    let defined := w.toNat % 256 ∈ [0x01, 0x02, 0x03, 0x04, 0x05, 0x08, 0x09, 0x0A, 0x0B, 0x0C, 0x0D, 0x0E, 0x0F, 0x10, 0x11, 0x12,
      0x20, 0x21, 0x22, 0x24, 0x25, 0x26, 0x28, 0x29, 0x2A]
    (decode w = .error .reservedOpcode ↔ ¬ defined) ∧
    (decode w = .error .reservedBits ↔ defined ∧ 2 ^ 25 ≤ w.toNat) ∧
    (decode w = .error .unusedField ↔ defined ∧ w.toNat < 2 ^ 25 ∧ ∀ i : Instr, encode i ≠ w) ∧
    (decode w = .error .registerRange ↔ ∃ i : Instr, i.wf = false ∧ encode i = w)

/-! ## The machine around a command -/

/-- A step in which the engine moves runs the decoded command's turn, and then only draws the next event. -/
def Obligations.StepRunsTheDecodedCommand : Prop :=
  ∀ (s t : State) (cmd : Word) (pos : Pos) (i : Instr), s.next = .engine → s.engine = .running cmd pos → decode cmd = .ok i →
    exec i s = .next t → step s = .next { t with next := Config.nextEvent t.draws, draws := t.draws + 1 }

/-- R93: an ILLEGAL command word changes nothing but STATUS: ERR = 1, DONE = 1, BUSY = 0. -/
def Obligations.IllegalWordsOnlyComplete : Prop :=
  ∀ (s : State) (cmd : Word) (e : Illegal), s.next = .engine → s.engine = .running cmd .start → decode cmd = .error e →
    step s = .next { s with err := .illegal, done := true, engine := .idle,
                            next := Config.nextEvent s.draws, draws := s.draws + 1 }

/-- No command ever stops the machine: the engine's turn in any command, at any position, answers a next state. Derived: every
error of 60_exceptions.md R250 is a completion. -/
def Obligations.EveryCommandTurnGoesOn : Prop := ∀ (i : Instr) (s : State), ∃ t, exec i s = .next t

/-- The model stops only for a host access with no meaning (R68) or outside the CSR window (R60); log 12. -/
def Obligations.OnlyAMalformedHostAccessStops : Prop :=
  ∀ s : State, (∀ t, step s ≠ .next t) ↔
    ∃ a, s.next = .host a ∧ (a.bytes ≠ 4 ∨ a.offset % 4 ≠ 0 ∨ 0x100 ≤ a.offset)

/-- Whatever turn ends a command writes ERR, DONE and BUSY together, the port then idle (R258); besides them it writes nothing, but with
TRANSPORT, after a failed answer, it clears CFG_VALID, and BANK_VALID where the failed request was a WRITE to 0xFF (R253). -/
def Obligations.EndingATurnWritesOnlyStatus : Prop :=
  ∀ (i : Instr) (s t : State) (cmd : Word) (pos : Pos), EngineInv s → s.engine = .running cmd pos → decode cmd = .ok i →
    exec i s = .next t → t.engine = .idle →
    ∃ e, t = { s with err := e, done := true, engine := .idle, bus := .idle, cfgValid := t.cfgValid, bankValid := t.bankValid } ∧
      (e ≠ .transport → t.cfgValid = s.cfgValid ∧ t.bankValid = s.bankValid) ∧
      (e = .transport → t.cfgValid = false ∧ ∃ r, s.bus = .answered r .fail ∧
        ((∃ d n v, r = .write d 0xFF n v) → t.bankValid = false) ∧
        ((∀ d n v, r ≠ .write d 0xFF n v) → t.bankValid = s.bankValid))

/-- Waiting lines are written one a turn, in order, whether a command's end or its loop's head comes after them; before an end, the
completion follows the last. The model's reading of R9 and R258 (log 2). -/
def Obligations.WaitingLinesRunInOrder : Prop :=
  ∀ (i : Instr) (s : State) (cmd : Word) (ws : List Line) (k : After), s.engine = .running cmd (.lines ws k) →
    (∀ l rest, ws = l :: rest → exec i s = .next { l.apply s with engine := .running cmd (.lines rest k) }) ∧
    execTimes ws.length i s = .next { applyAll ws s with engine := .running cmd (.lines [] k) } ∧
    (∀ e, k = .finish e → (ws = [] → Raises i s e) ∧
      execTimes (ws.length + 1) i s = .next { applyAll ws s with err := e, done := true, engine := .idle })

/-- No command writes an ARG register, a CSR only the host writes, OVERRUN, the table, the tick, or anything of the sensor: every
sensor register reads as before. Derived from R21, R29, R42 and R62 (the sensor is reached only through requests). -/
def Obligations.CommandsLeaveInputsAndSensorAlone : Prop :=
  ∀ (i : Instr) (s t : State), exec i s = .next t →
    t.arg = s.arg ∧ t.ioTimeout = s.ioTimeout ∧ t.overrun = s.overrun ∧ t.tuning = s.tuning ∧ t.tick = s.tick ∧
    SensorUntouched s t ∧ (∀ a, t.sensor.read a = s.sensor.read a) ∧ t.readData = s.readData ∧
    t.next = s.next ∧ t.draws = s.draws

/-- Which command may change which register, for every state the engine's invariant allows (R21, R22, R30, R31, R32, R33, R35,
R36, R38). BANK_VALID is cleared only where a WRITE to 0xFF failed, CFG_VALID only by SEQ_RUN or a failed request (R253). -/
def Obligations.EachRegisterHasItsWriters : Prop :=
  ∀ (i : Instr) (s t : State) (cmd : Word) (pos : Pos), EngineInv s → s.engine = .running cmd pos → decode cmd = .ok i →
    exec i s = .next t →
    (t.budgetUs ≠ s.budgetUs → i = .budgetGet ∨ i = .budgetSet) ∧
    (t.stopVar ≠ s.stopVar ∨ t.stopValid ≠ s.stopValid → ∃ reg, i = .rd8Cap reg) ∧
    (t.devAddr ≠ s.devAddr → ∃ reg a, i = .setAddr reg a) ∧
    (t.seqPc ≠ s.seqPc → i = .seqRun) ∧
    (t.bank ≠ s.bank → (∃ b, i = .wr8 0xFF b) ∨ i = .wr8Sv 0xFF ∨ i = .seqRun) ∧
    (t.bankValid = true → s.bankValid = true ∨ (∃ b, i = .wr8 0xFF b) ∨ i = .wr8Sv 0xFF ∨ i = .seqRun) ∧
    (t.bankValid = false → s.bankValid = false ∨ ∃ d n v, s.bus = .answered (.write d 0xFF n v) .fail) ∧
    (t.cfgValid = true → s.cfgValid = true ∨ i = .seqRun) ∧
    (t.cfgValid = false → s.cfgValid = false ∨ i = .seqRun ∨ ∃ r, s.bus = .answered r .fail) ∧
    (t.res.r0 ≠ s.res.r0 → i ≠ .guardArm ∧ (∀ reg b, i ≠ .wr8 reg b) ∧ (∀ reg, i ≠ .wr8Sv reg) ∧ (∀ reg, i ≠ .wr16 reg) ∧
      (∀ reg, i ≠ .wr32 reg) ∧ ∀ reg a, i ≠ .setAddr reg a) ∧
    (t.res.r1 ≠ s.res.r1 ∨ t.res.r2 ≠ s.res.r2 ∨ t.res.r3 ≠ s.res.r3 → i = .stepTimeouts ∨ i = .budgetSet) ∧
    (t.res.r4 ≠ s.res.r4 ∨ t.res.r5 ≠ s.res.r5 → i = .stepTimeouts) ∧
    (t.deadline ≠ s.deadline ∨ t.guardEn ≠ s.guardEn →
      i = .guardArm ∨ (∃ reg m, i = .pollNz reg m) ∨ (∃ reg m, i = .pollZ reg m)) ∧
    (t.didTimeout = true → s.didTimeout = true ∨ i = .guardCheck ∨ (∃ reg m, i = .pollNz reg m) ∨ (∃ reg m, i = .pollZ reg m)) ∧
    (t.didTimeout = false → s.didTimeout = false ∨ i = .timeoutOccurred)

/-- The engine learns of the sensor only through responses: a turn is the same whatever the sensor's registers, bank and bus address are
(R44: the block's BANK "is a shadow"). -/
def Obligations.EngineSeesTheSensorOnlyThroughResponses : Prop :=
  ∀ (i : Instr) (s t : State) (m : Memory) (b : Byte) (a : DevAddr), exec i s = .next t →
    exec i { s with sensor := m, sensorBank := b, sensorAddr := a } = .next { t with sensor := m, sensorBank := b, sensorAddr := a }

/-! ## Invariants -/

/-- The engine's invariant holds after reset. -/
def Obligations.EngineInvAtReset : Prop := EngineInv State.reset

/-- Every step keeps the engine's invariant: an idle engine has no request out, a waiting one exactly the request its command names,
DONE and ERR are 0 while a command runs, only the command's own lines, before an end or a loop it has, are left, and SEQ_PC stays within
the table. -/
def Obligations.EveryStepKeepsTheEngineInv : Prop :=
  ∀ s t : State, EngineInv s → step s = .next t → EngineInv t

/-- The shadow's invariant holds after reset. -/
def Obligations.ShadowInvAtReset : Prop := ShadowInv State.reset

/-- Every step keeps the bank shadow right: with no command running, BANK_VALID = 1 says BANK = SB (R66). The premise says that a write
to 0xFF in flight goes to the sensor's own bus address: the shadow knows nothing of another device's bank (log 4). No other bus master
writes the sensor (log 16). -/
def Obligations.EveryStepKeepsTheBankShadow : Prop :=
  ∀ s t : State, EngineInv s → ShadowInv s → (∀ dev n v p, s.bus = .pending (.write dev 0xFF n v) p → dev = s.sensorAddr) →
    step s = .next t → ShadowInv t ∧ (t.engine = .idle → t.bankValid = true → t.bank = t.sensorBank)

/-- The sensor's register file of the state after reset is in canonical form. Its contents there are the model's choice, not the spec's: it
lists nothing (DESIGN CHOICE, log 5). -/
def Obligations.MemoryCanonicalAtReset : Prop := State.reset.sensor.wf = true

/-- Every step keeps the sensor's register file in canonical form. -/
def Obligations.EveryStepKeepsMemoryCanonical : Prop :=
  ∀ s t : State, s.sensor.wf = true → step s = .next t → t.sensor.wf = true

/-- R38's sticky flag: once set, every step keeps it but one of TIMEOUT_OCCURRED's, or a reset. -/
def Obligations.StickyFlagIsClearedOnlyByItsRead : Prop :=
  ∀ s t : State, EngineInv s → step s = .next t → s.didTimeout = true →
    t.didTimeout = true ∨ (∃ took k, s.next = .reset took k) ∨
    (s.next = .engine ∧ ∃ cmd pos, s.engine = .running cmd pos ∧ decode cmd = .ok .timeoutOccurred)

/-- The tick never goes back, except across a reset (R180: monotonic "since reset"). -/
def Obligations.TickNeverGoesBack : Prop :=
  ∀ s t : State, step s = .next t → (∀ took k, s.next ≠ .reset took k) → s.tick.toNat ≤ t.tick.toNat

/-- DEADLINE changes only while a command runs, so a host that reads its halves while BUSY = 0 sees one value (R30); or by reset. -/
def Obligations.DeadlineChangesOnlyWhileBusy : Prop :=
  ∀ s t : State, step s = .next t → t.deadline ≠ s.deadline → s.engine ≠ .idle ∨ ∃ took k, s.next = .reset took k

/-! ## Reset -/

/-- R45: every value of the table, after block reset from any state, and in the state after reset. -/
def Obligations.ResetLeavesTheTableOfR45 : Prop :=
  let leaves := fun (t : State) (table : List (Byte × Byte)) =>
    t.engine = .idle ∧ t.done = false ∧ t.err = .none ∧ t.overrun = false ∧ t.bankValid = false ∧ t.cfgValid = false ∧
    t.guardEn = false ∧ t.stopValid = false ∧ t.statusWord = 0 ∧ t.arg = ⟨0, 0, 0, 0, 0, 0⟩ ∧ t.res = ⟨0, 0, 0, 0, 0, 0⟩ ∧
    t.ioTimeout = 0 ∧ t.deadline = 0 ∧ t.didTimeout = false ∧ t.devAddr = 0x29 ∧ t.bank = 0 ∧ t.stopVar = 0 ∧ t.budgetUs = 0 ∧
    t.seqPc = 0 ∧ t.bus = .idle ∧ t.tuning = table
  leaves State.reset Config.tuningTable ∧
  ∀ (s : State) (took : BitVec 4) (k : Tick), s.next = .reset took k → ∃ t, step s = .next t ∧ leaves t s.tuning

/-- R283 and R282: block reset does not touch the sensor's registers, bank or bus address; only a WRITE in flight to the sensor's address
may reach it, and of its bytes not yet transferred exactly those that the drawn mask names, whichever they are: none (0), all, as after an
Ok (15), or some. Derived; which bytes is the model's reading (log 7), and so are that a READ in flight at reset changes nothing by itself
(U5 calls its effect unknown: in the model a register that changes when read does so by the sensor's own event, log 3) and that a WRITE to
another address, or the rest of one whose own byte has moved the sensor (log 20), does not reach the sensor (log 4). -/
def Obligations.ResetTouchesTheSensorOnlyByAWriteInFlight : Prop :=
  ∀ (s t : State) (took : BitVec 4) (k : Tick), s.next = .reset took k → step s = .next t →
    ((∀ dev reg n v p, s.bus ≠ .pending (.write dev reg n v) p) → SensorUntouched s t) ∧
    (took = 0 → SensorUntouched s t) ∧
    (∀ dev reg n v p, s.bus = .pending (.write dev reg n v) p →
      SensorUntouched (sensorServes took (.write dev reg n v) p s) t ∧
      (dev ≠ s.sensorAddr → SensorUntouched s t) ∧
      (dev = s.sensorAddr → s.sensor.wf = true → TakesBytes (fun j => took.getLsbD j && (p.get j).isNone) reg n v s t) ∧
      (took = 15 → ∀ free, SensorUntouched (transportAnswers (.ok free) s) t))

/-! ## The host's side -/

/-- R27: every field of STATUS at its place, the reserved bits 0; the error codes are the numbers of R250. -/
def Obligations.StatusFieldsStandAtTheirPlaces : Prop :=
  ∀ s : State,
    s.statusWord.getLsbD 0 = decide (s.engine ≠ .idle) ∧ s.statusWord.getLsbD 1 = s.done ∧
    s.statusWord.getLsbD 2 = false ∧ s.statusWord.getLsbD 3 = false ∧
    (s.statusWord.extractLsb' 4 4).toNat =
      (match s.err with
        | .none => 0
        | .illegal => 1
        | .range => 2
        | .validation => 3
        | .div0 => 4
        | .transport => 5
        | .timeout => 6) ∧
    s.statusWord.getLsbD 8 = s.overrun ∧ s.statusWord.getLsbD 9 = s.bankValid ∧
    s.statusWord.getLsbD 10 = s.cfgValid ∧ s.statusWord.getLsbD 11 = s.guardEn ∧ s.statusWord.getLsbD 12 = s.stopValid ∧
    ∀ k, 13 ≤ k → s.statusWord.getLsbD k = false

/-- What a host read of each offset of R25's map returns; the read changes nothing else (R46). -/
def Obligations.HostReadsReturnTheRegisters : Prop :=
  ∀ (s : State) (off : Nat), s.next = .host { offset := off, bytes := 4, data := none } → off % 4 = 0 → off < 0x100 →
    ∃ v, step s = .next { s with readData := v, next := Config.nextEvent s.draws, draws := s.draws + 1 } ∧
      (off = 0x00 → v = 0) ∧ (off = 0x04 → v = s.statusWord) ∧
      (off = 0x08 → v = s.arg.r0) ∧ (off = 0x0C → v = s.arg.r1) ∧ (off = 0x10 → v = s.arg.r2) ∧
      (off = 0x14 → v = s.arg.r3) ∧ (off = 0x18 → v = s.arg.r4) ∧ (off = 0x1C → v = s.arg.r5) ∧
      (off = 0x20 → v = s.res.r0) ∧ (off = 0x24 → v = s.res.r1) ∧ (off = 0x28 → v = s.res.r2) ∧
      (off = 0x2C → v = s.res.r3) ∧ (off = 0x30 → v = s.res.r4) ∧ (off = 0x34 → v = s.res.r5) ∧
      (off = 0x38 → v = s.ioTimeout) ∧ (off = 0x3C → v.toNat = s.deadline.toNat % 2 ^ 32) ∧
      (off = 0x40 → v.toNat = s.deadline.toNat / 2 ^ 32) ∧ (off = 0x44 → v.toNat = s.devAddr.toNat) ∧
      (off = 0x48 → v.toNat = s.bank.toNat) ∧ (off = 0x4C → v.toNat = s.stopVar.toNat) ∧ (off = 0x50 → v = s.budgetUs) ∧
      (off = 0x54 → v.toNat = s.seqPc.toNat) ∧ (off = 0x58 → s.tuning.length ≤ 65535 → v.toNat = s.tuning.length) ∧
      (0x5C ≤ off → v = 0)

/-- R41: while a command runs, a host write to CMD, ARG0 to ARG5, IO_TIMEOUT, DEV_ADDR or STOP_VAR only sets OVERRUN, and a write to
STATUS still clears it. -/
def Obligations.HostWritesAreDroppedWhileBusy : Prop :=
  ∀ (s : State) (cmd w : Word) (pos : Pos) (off : Nat), s.engine = .running cmd pos →
    s.next = .host { offset := off, bytes := 4, data := some w } → off % 4 = 0 → off < 0x100 →
    ∃ v, step s = .next { s with overrun := v, next := Config.nextEvent s.draws, draws := s.draws + 1 } ∧
      (off ∈ [0x00, 0x08, 0x0C, 0x10, 0x14, 0x18, 0x1C, 0x38, 0x44, 0x4C] → v = true) ∧
      (off = 0x04 → v = (s.overrun && !w.getLsbD 8)) ∧
      (off ∉ [0x00, 0x04, 0x08, 0x0C, 0x10, 0x14, 0x18, 0x1C, 0x38, 0x44, 0x4C] → v = s.overrun)

/-- What a host write to an idle block does at every offset (R25's access types, R26, R27, R31, R35, R37): CMD starts a command. -/
def Obligations.HostWritesWhileIdle : Prop :=
  ∀ (s : State) (w : Word) (off : Nat), s.engine = .idle →
    s.next = .host { offset := off, bytes := 4, data := some w } → off % 4 = 0 → off < 0x100 →
    ∃ t, step s = .next { t with next := Config.nextEvent s.draws, draws := s.draws + 1 } ∧
      (off = 0x00 → t = { s with engine := .running w .start, done := false, err := .none }) ∧
      (off = 0x04 → t = { s with overrun := s.overrun && !w.getLsbD 8 }) ∧
      (off = 0x08 → t = { s with arg := { s.arg with r0 := w } }) ∧ (off = 0x0C → t = { s with arg := { s.arg with r1 := w } }) ∧
      (off = 0x10 → t = { s with arg := { s.arg with r2 := w } }) ∧ (off = 0x14 → t = { s with arg := { s.arg with r3 := w } }) ∧
      (off = 0x18 → t = { s with arg := { s.arg with r4 := w } }) ∧ (off = 0x1C → t = { s with arg := { s.arg with r5 := w } }) ∧
      (off = 0x38 → t = { s with ioTimeout := w }) ∧
      (off = 0x44 → t = { s with devAddr := w.setWidth 7 }) ∧
      (off = 0x4C → t = { s with stopVar := w.setWidth 8, stopValid := true }) ∧
      (off ∉ [0x00, 0x04, 0x08, 0x0C, 0x10, 0x14, 0x18, 0x1C, 0x38, 0x44, 0x4C] → t = s)

/-- R38: no CSR shows the sticky flag. -/
def Obligations.NoRegisterShowsTheStickyFlag : Prop :=
  ∀ (c : Csr) (s : State) (b : Bool), c.read { s with didTimeout := b } = c.read s

/-! ## The transport and the sensor -/

/-- R63 and R65, of a WRITE in flight of which `p` has been transferred. An Ok lands the bytes that are left, most significant first, in
the registers of the current bank from `reg` on, and leaves every other register and the bank alone; a 1-byte write to 0xFF selects the bank
and writes no register. R70: any byte may also be transferred by itself, before the answer; then that byte alone lands. The model's
readings in it: the bytes left at an Ok land in one step, the rest as the drawn events had it (log 3); only a write to the sensor's bus
address reaches it, and one at its address register moves it (log 4), after which the bytes left of that same WRITE no longer reach it,
though the answer be Ok (DESIGN CHOICE, log 20). -/
def Obligations.OkWritesReachTheirRegisters : Prop :=
  ∀ (s : State) (free : Word) (lone : Byte) (dev : DevAddr) (reg : Byte) (n : Width) (v : Word) (p : Transfer),
    s.bus = .pending (.write dev reg n v) p → s.sensor.wf = true →
    (∃ m b a, transportAnswers (.ok free) s =
        { s with sensor := m, sensorBank := b, sensorAddr := a, bus := .answered (.write dev reg n v) (.ok 0) } ∧
      (dev ≠ s.sensorAddr → m = s.sensor ∧ b = s.sensorBank ∧ a = s.sensorAddr) ∧
      (dev = s.sensorAddr → TakesBytes (fun j => (p.get j).isNone) reg n v s { s with sensor := m, sensorBank := b, sensorAddr := a })) ∧
    (∀ k, k < n.bytes → p.get k = none →
      ∃ m b a q, transfersByte k lone s =
          { s with sensor := m, sensorBank := b, sensorAddr := a, bus := .pending (.write dev reg n v) q } ∧
        (∀ j, (q.get j).isSome = (j == k || (p.get j).isSome)) ∧
        (dev ≠ s.sensorAddr → m = s.sensor ∧ b = s.sensorBank ∧ a = s.sensorAddr) ∧
        (dev = s.sensorAddr → TakesBytes (fun j => j == k) reg n v s { s with sensor := m, sensorBank := b, sensorAddr := a })) ∧
    (∀ k, n.bytes ≤ k ∨ p.get k ≠ none → transfersByte k lone s = s)

/-- R63, of a READ in flight of which `p` has been transferred. The value of an Ok is big-endian in its wire bytes: each as it was
transferred, and those that are left as the registers of the current bank are now, where register 0xFF returns the byte drawn for it
(93_implementation_defined.md U7, log 13); nothing of the sensor changes. R70: any byte may also be transferred by itself, before the
answer. The model's readings in it: the bytes left at an Ok are those of one instant, the others of their own (log 3); only a read at the
sensor's bus address returns its registers, another device returns any bytes (log 4). -/
def Obligations.OkReadsReturnTheirRegisters : Prop :=
  ∀ (s : State) (free : Word) (lone : Byte) (dev : DevAddr) (reg : Byte) (n : Width) (p : Transfer),
    s.bus = .pending (.read dev reg n) p → reg.toNat + n.bytes ≤ 0x100 →
    let now := fun (any : Nat) k =>
      if dev ≠ s.sensorAddr ∨ reg.toNat + k = 0xFF then any
      else (s.sensor.read (256 * s.sensorBank.toNat + reg.toNat + k)).toNat
    let at_ := fun k =>
      match p.get k with
      | some b => b.toNat
      | none => now (free.toNat / 256 ^ k % 256) k
    (∃ v, transportAnswers (.ok free) s = { s with bus := .answered (.read dev reg n) (.ok v) } ∧
      (n = .one → v.toNat = at_ 0) ∧ (n = .two → v.toNat = at_ 0 * 256 + at_ 1) ∧
      (n = .four → v.toNat = at_ 0 * 2 ^ 24 + at_ 1 * 2 ^ 16 + at_ 2 * 2 ^ 8 + at_ 3)) ∧
    (∀ k, k < n.bytes → p.get k = none →
      ∃ b q, transfersByte k lone s = { s with bus := .pending (.read dev reg n) q } ∧ b.toNat = now lone.toNat k ∧
        ∀ j, q.get j = if j = k then some b else p.get j) ∧
    (∀ k, n.bytes ≤ k ∨ p.get k ≠ none → transfersByte k lone s = s)

/-- R81's free draw: whatever byte one wishes, the sensor's own changes (log 3) can make it what the next Ok read returns, and so can the
free byte of register 0xFF and of another device's answer (logs 4 and 13). -/
def Obligations.AReadMayReturnAnyByte : Prop :=
  ∀ (s : State) (b : Byte) (free : Word) (dev : DevAddr) (reg : Byte), s.sensor.wf = true → s.bus = .pending (.read dev reg .one) .none →
    (transportAnswers (.ok (if reg = 0xFF ∨ dev ≠ s.sensorAddr then zext b else free)) (sensorChanges s.sensorBank reg b s)).bus =
      .answered (.read dev reg .one) (.ok (zext b))

/-- R253: a failed request ends the command as TRANSPORT: CFG_VALID <- 0, BANK_VALID <- 0 for a write to 0xFF, and nothing else; SEQ_PC,
DEV_ADDR, DID_TIMEOUT, DEADLINE and every RES register keep their values. -/
def Obligations.AFailedRequestRaisesTransport : Prop :=
  ∀ (i : Instr) (s : State) (cmd : Word) (r : Request), s.engine = .running cmd .await → s.bus = .answered r .fail →
    RaisesTransport i s r

/-- R9, R82: while a request is unanswered the engine waits, for ever if it is never answered. -/
def Obligations.TheEngineWaitsForItsAnswer : Prop :=
  ∀ (i : Instr) (s : State) (cmd : Word) (r : Request) (p : Transfer), s.engine = .running cmd .await → s.bus = .pending r p →
    ∀ n, execTimes n i s = .next s

/-! ## Timing Model -/

/-- R127. -/
def Obligations.DecTimeoutWritesTheDecodedCount : Prop :=
  EncodedAs .decTimeout 0x01 True ∧
  ∀ (s : State) (cmd : Word), s.engine = .running cmd .start →
    if 0x10000 ≤ s.arg.r0.toNat then Raises .decTimeout s .range
    else if 0xFFFF < s.arg.r0.toNat % 256 * 2 ^ (s.arg.r0.toNat / 256) + 1 then Raises .decTimeout s .range
    else WritesRes0 .decTimeout s cmd (s.arg.r0.toNat % 256 * 2 ^ (s.arg.r0.toNat / 256) + 1)

/-- R128 with R122's least shift, said without the model's own search for it. -/
def Obligations.EncTimeoutWritesTheLeastShift : Prop :=
  EncodedAs .encTimeout 0x02 True ∧
  ∀ (s : State) (cmd : Word), s.engine = .running cmd .start →
    if 0x10000 ≤ s.arg.r0.toNat then Raises .encTimeout s .range
    else if s.arg.r0.toNat = 0 then WritesRes0 .encTimeout s cmd 0
    else ∃ m, (s.arg.r0.toNat - 1) / 2 ^ m ≤ 255 ∧ (∀ k, k < m → 255 < (s.arg.r0.toNat - 1) / 2 ^ k) ∧
      WritesRes0 .encTimeout s cmd (m * 256 + (s.arg.r0.toNat - 1) / 2 ^ m)

/-- R129 with R120's formula. -/
def Obligations.MacroPeriodWritesThePeriod : Prop :=
  EncodedAs .macroPeriod 0x03 True ∧
  ∀ (s : State) (cmd : Word), s.engine = .running cmd .start →
    if 256 ≤ s.arg.r0.toNat then Raises .macroPeriod s .range
    else WritesRes0 .macroPeriod s cmd ((2304 * s.arg.r0.toNat * 1655 + 500) / 1000)

/-- R130 with R123's formula under the default bias (00_scope.md R6, 90_conflicts.md C1). -/
def Obligations.MclkToUsRoundsHalfUp : Prop :=
  EncodedAs .mclkToUs 0x04 True ∧
  ∀ (s : State) (cmd : Word), s.engine = .running cmd .start →
    let v := (s.arg.r0.toNat * ((2304 * s.arg.r1.toNat * 1655 + 500) / 1000) + 500) / 1000
    if 256 ≤ s.arg.r1.toNat then Raises .mclkToUs s .range
    else if 2 ^ 32 ≤ v then Raises .mclkToUs s .range
    else WritesRes0 .mclkToUs s cmd v

/-- R131: with a period of 0 the divisor is 0 and DIV0 is raised; every other result fits 32 bits. -/
def Obligations.UsToMclkDividesByThePeriod : Prop :=
  EncodedAs .usToMclk 0x05 True ∧
  ∀ (s : State) (cmd : Word), s.engine = .running cmd .start →
    let q := (2304 * s.arg.r1.toNat * 1655 + 500) / 1000
    if 256 ≤ s.arg.r1.toNat then Raises .usToMclk s .range
    else if s.arg.r1.toNat = 0 then Raises .usToMclk s .div0
    else WritesRes0 .usToMclk s cmd ((s.arg.r0.toNat * 1000 + q / 2) / q)

/-- R125, the five laws of the timeout codec. -/
def Obligations.TimeoutCodecLaws : Prop :=
  (∀ t, 1 ≤ t → t ≤ 65535 → 1 ≤ decTo (encTo t) ∧ decTo (encTo t) ≤ t) ∧
  (∀ t, 1 ≤ t → t ≤ 65535 → (∀ r, r ≤ 65535 → decTo r ≤ t → decTo r ≤ decTo (encTo t)) ∧
    t - decTo (encTo t) < 2 ^ (encTo t / 256)) ∧
  (∀ t, 1 ≤ t → t ≤ 256 → decTo (encTo t) = t) ∧
  (∀ t, 1 ≤ t → t ≤ 65535 → encTo (decTo (encTo t)) = encTo t) ∧
  (encTo 0 = 0 ∧ decTo 0 = 1)

/-- R120: the macro period's formula; it is strictly increasing, and 0 only for a period of 0. -/
def Obligations.MacroPeriodIsStrictlyIncreasing : Prop :=
  (∀ p, p ≤ 255 → mp p = (2304 * p * 1655 + 500) / 1000) ∧
  (∀ p q, p < q → q ≤ 255 → mp p < mp q) ∧ (∀ p, p ≤ 255 → (mp p = 0 ↔ p = 0))

/-! ## Configuration arithmetic -/

/-- R220 with R210's bits under the default mapping (00_scope.md R6, 90_conflicts.md C4). -/
def Obligations.SeqDecodeWritesTheEnables : Prop :=
  EncodedAs .seqDecode 0x08 True ∧
  ∀ (s : State) (cmd : Word), s.engine = .running cmd .start →
    if 256 ≤ s.arg.r0.toNat then Raises .seqDecode s .range
    else WritesRes0 .seqDecode s cmd
      (s.arg.r0.toNat / 2 ^ 4 % 2 + 2 * (s.arg.r0.toNat / 2 ^ 3 % 2) + 4 * (s.arg.r0.toNat / 2 ^ 2 % 2)
        + 8 * (s.arg.r0.toNat / 2 ^ 6 % 2) + 16 * (s.arg.r0.toNat / 2 ^ 7 % 2))

/-- R221. -/
def Obligations.VcselDecWritesThePeriod : Prop :=
  EncodedAs .vcselDec 0x09 True ∧
  ∀ (s : State) (cmd : Word), s.engine = .running cmd .start →
    if 127 ≤ s.arg.r0.toNat then Raises .vcselDec s .range
    else WritesRes0 .vcselDec s cmd ((s.arg.r0.toNat + 1) * 2)

/-- R222 and R223: each form accepts exactly its four periods. -/
def Obligations.VcselEncAcceptsOnlyLegalPeriods : Prop :=
  EncodedAs .vcselEncPre 0x0A True ∧ EncodedAs .vcselEncFinal 0x0100000A True ∧
  ∀ (s : State) (cmd : Word), s.engine = .running cmd .start →
    (if 256 ≤ s.arg.r0.toNat then Raises .vcselEncPre s .range
     else if s.arg.r0.toNat = 12 ∨ s.arg.r0.toNat = 14 ∨ s.arg.r0.toNat = 16 ∨ s.arg.r0.toNat = 18 then
       WritesRes0 .vcselEncPre s cmd (s.arg.r0.toNat / 2 - 1)
     else Raises .vcselEncPre s .validation) ∧
    (if 256 ≤ s.arg.r0.toNat then Raises .vcselEncFinal s .range
     else if s.arg.r0.toNat = 8 ∨ s.arg.r0.toNat = 10 ∨ s.arg.r0.toNat = 12 ∨ s.arg.r0.toNat = 14 then
       WritesRes0 .vcselEncFinal s cmd (s.arg.r0.toNat / 2 - 1)
     else Raises .vcselEncFinal s .validation)

/-- R224: RANGE or all six results in one turn ("all together"), none wrapped; the pre-range count is subtracted when bit 6 of the sequence byte is set. -/
def Obligations.StepTimeoutsWritesSixResults : Prop :=
  EncodedAs .stepTimeouts 0x0B True ∧
  ∀ (s : State) (cmd : Word), s.engine = .running cmd .start →
    let seq := s.arg.r0.toNat % 256
    let pre := (s.arg.r0.toNat / 2 ^ 8 % 256 + 1) * 2
    let fin := (s.arg.r0.toNat / 2 ^ 16 % 256 + 1) * 2
    let msrc := s.arg.r0.toNat / 2 ^ 24 + 1
    let preMclks := s.arg.r1.toNat % 256 * 2 ^ (s.arg.r1.toNat / 256 % 256) + 1
    let finTotal := s.arg.r1.toNat / 2 ^ 16 % 256 * 2 ^ (s.arg.r1.toNat / 2 ^ 24) + 1
    let share := if seq / 2 ^ 6 % 2 = 1 then preMclks else 0
    let us := fun m p => (m * ((2304 * p * 1655 + 500) / 1000) + 500) / 1000
    if 255 < pre ∨ 255 < fin ∨ 0xFFFF < preMclks ∨ 0xFFFF < finTotal ∨ finTotal < share then Raises .stepTimeouts s .range
    else
      ∃ r : RegFile, r.r0.toNat = msrc * 2 ^ 16 + fin * 2 ^ 8 + pre ∧ r.r1.toNat = us msrc pre ∧ r.r2.toNat = preMclks ∧
        r.r3.toNat = us preMclks pre ∧ r.r4.toNat = finTotal - share ∧ r.r5.toNat = us (finTotal - share) fin ∧
        exec .stepTimeouts s = .next { s with res := r, engine := .running cmd (.lines [] (.finish .none)) } ∧
        execTimes 2 .stepTimeouts s = .next { s with res := r, err := .none, done := true, engine := .idle }

/-- R225: the sum goes to RES0 and BUDGET_US, or RANGE where it does not fit. -/
def Obligations.BudgetGetSumsTheEnabledSteps : Prop :=
  EncodedAs .budgetGet 0x0C True ∧
  ∀ (s : State) (cmd : Word), s.engine = .running cmd .start →
    let on := fun k => s.arg.r0.toNat / 2 ^ k % 2 = 1
    let msrc := s.arg.r1.toNat
    let b := 1910 + 960 + (if on 4 then msrc + 590 else 0) + (if on 2 then 2 * (msrc + 690) else if on 3 then msrc + 660 else 0)
      + (if on 6 then s.arg.r2.toNat + 660 else 0) + (if on 7 then s.arg.r3.toNat + 550 else 0)
    if 256 ≤ s.arg.r0.toNat then Raises .budgetGet s .range
    else if 2 ^ 32 ≤ b then Raises .budgetGet s .range
    else
      exec .budgetGet s = .next
        { s with res := { s.res with r0 := word b }, engine := .running cmd (.lines [.budget (word b)] (.finish .none)) } ∧
      execTimes 3 .budgetGet s = .next
        { s with res := { s.res with r0 := word b }, budgetUs := word b, err := .none, done := true, engine := .idle }

/-- R226 with R215: the checks in their order, then the allotment; on an error nothing but STATUS is written. -/
def Obligations.BudgetSetAllotsTheFinalRange : Prop :=
  EncodedAs .budgetSet 0x0D True ∧
  ∀ (s : State) (cmd : Word), s.engine = .running cmd .start →
    let on := fun k => s.arg.r0.toNat / 2 ^ k % 2 = 1
    let msrc := s.arg.r1.toNat
    let pclks := s.arg.r0.toNat / 256
    let q := (2304 * pclks * 1655 + 500) / 1000
    let used := 1320 + 960 + (if on 4 then msrc + 590 else 0) + (if on 2 then 2 * (msrc + 690) else if on 3 then msrc + 660 else 0)
      + (if on 6 then s.arg.r2.toNat + 660 else 0) + 550
    let budget := s.arg.r4.toNat
    let us := budget - used
    let mclks := (us * 1000 + q / 2) / q + (if on 6 then s.arg.r3.toNat else 0)
    if 0x10000 ≤ s.arg.r0.toNat ∨ 0x10000 ≤ s.arg.r3.toNat then Raises .budgetSet s .range
    else if budget < 20000 then Raises .budgetSet s .validation
    else if ¬ on 7 then
      exec .budgetSet s = .next { s with res := { s.res with r3 := 0 }, engine := .running cmd (.lines [] (.finish .none)) } ∧
      execTimes 2 .budgetSet s = .next { s with res := { s.res with r3 := 0 }, err := .none, done := true, engine := .idle }
    else if budget < used then Raises .budgetSet s .validation
    else if pclks = 0 then Raises .budgetSet s .div0
    else if 0xFFFF < mclks then Raises .budgetSet s .range
    else
      exec .budgetSet s = .next
        { s with res := { s.res with r0 := word (encTo mclks) },
                 engine := .running cmd (.lines [.res 1 (word mclks), .res 2 (word us), .res 3 1, .budget s.arg.r4] (.finish .none)) } ∧
      execTimes 6 .budgetSet s = .next
        { s with res := { s.res with r0 := word (encTo mclks), r1 := word mclks, r2 := word us, r3 := 1 }, budgetUs := s.arg.r4,
                 err := .none, done := true, engine := .idle }

/-- R227 with R216, in rational numbers: NaN, infinity, a negative value or one above 511.99 is refused; else RES0 = floor(v * 128). -/
def Obligations.SrlEncTruncatesTheLimit : Prop :=
  EncodedAs .srlEnc 0x0E True ∧
  ∀ (s : State) (cmd : Word), s.engine = .running cmd .start →
    if s.arg.r0.toNat / 2 ^ 23 % 256 = 255 then Raises .srlEnc s .validation
    else if binary32Value s.arg.r0 < 0 ∨ (51199 / 100 : ℚ) < binary32Value s.arg.r0 then Raises .srlEnc s .validation
    else ∃ q : Nat, (q : ℚ) ≤ binary32Value s.arg.r0 * 128 ∧ binary32Value s.arg.r0 * 128 < (q : ℚ) + 1 ∧ q ≤ 65534 ∧
      WritesRes0 .srlEnc s cmd q

/-- R228 with R217: the pattern of a finite number with the sign bit clear whose value is exactly q / 128. -/
def Obligations.SrlDecIsExact : Prop :=
  EncodedAs .srlDec 0x0F True ∧
  ∀ (s : State) (cmd : Word), s.engine = .running cmd .start →
    if 0x10000 ≤ s.arg.r0.toNat then Raises .srlDec s .range
    else ∃ w : Word, binary32Value w = (s.arg.r0.toNat : ℚ) / 128 ∧ w.toNat / 2 ^ 23 < 255 ∧ WritesRes0 .srlDec s cmd w.toNat

/-! ## Guard and polls -/

/-- R184 with R181: DEADLINE is the exact sum saturated at 2^64 - 1, GUARD_EN says whether IO_TIMEOUT ≠ 0. -/
def Obligations.GuardArmSetsTheDeadline : Prop :=
  EncodedAs .guardArm 0x10 True ∧
  ∀ (s : State) (cmd : Word), s.engine = .running cmd .start →
    ∃ d : Tick, d.toNat = min (s.tick.toNat + s.ioTimeout.toNat) (2 ^ 64 - 1) ∧
      exec .guardArm s = .next
        { s with deadline := d, engine := .running cmd (.lines [.guardEn (decide (s.ioTimeout ≠ 0))] (.finish .none)) } ∧
      execTimes 3 .guardArm s = .next
        { s with deadline := d, guardEn := decide (s.ioTimeout ≠ 0), err := .none, done := true, engine := .idle }

/-- R185 with R182: strictly past an enabled deadline DID_TIMEOUT is set and RES0 = 1; else RES0 = 0; never an error. -/
def Obligations.GuardCheckReportsExpiry : Prop :=
  EncodedAs .guardCheck 0x11 True ∧
  ∀ (s : State) (cmd : Word), s.engine = .running cmd .start →
    if s.guardEn = true ∧ s.deadline.toNat < s.tick.toNat then
      exec .guardCheck s = .next { s with didTimeout := true, engine := .running cmd (.lines [.res 0 1] (.finish .none)) } ∧
      execTimes 3 .guardCheck s = .next
        { s with didTimeout := true, res := { s.res with r0 := 1 }, err := .none, done := true, engine := .idle }
    else WritesRes0 .guardCheck s cmd 0

/-- R186: the flag is read into RES0 and cleared in one turn. -/
def Obligations.TimeoutOccurredReadsAndClears : Prop :=
  EncodedAs .timeoutOccurred 0x12 True ∧
  ∀ (s : State) (cmd : Word), s.engine = .running cmd .start →
    let v : Word := if s.didTimeout then 1 else 0
    exec .timeoutOccurred s = .next
      { s with res := { s.res with r0 := v }, didTimeout := false, engine := .running cmd (.lines [] (.finish .none)) } ∧
    execTimes 2 .timeoutOccurred s = .next
      { s with res := { s.res with r0 := v }, didTimeout := false, err := .none, done := true, engine := .idle }

/-- R187 and R188, turn by turn: a poll arms the guard, issues a 1-byte read, and on its value ends with RES0 = the byte where the
predicate holds; else, past an enabled deadline, it sets DID_TIMEOUT and the sentinel and ends as TIMEOUT; else it reads again. -/
def Obligations.PollsReadThenCheckTheDeadline : Prop :=
  (∀ reg mask : Byte, EncodedAs (.pollNz reg mask) (mask.toNat * 65536 + reg.toNat * 256 + 0x28) True ∧
    EncodedAs (.pollZ reg mask) (2 ^ 24 + mask.toNat * 65536 + reg.toNat * 256 + 0x28) True) ∧
  ∀ (i : Instr) (reg mask : Byte) (hit : Word → Prop) (s : State) (cmd : Word),
    (i = .pollNz reg mask ∧ (∀ v, hit v ↔ v &&& zext mask ≠ 0)) ∨ (i = .pollZ reg mask ∧ (∀ v, hit v ↔ v &&& zext mask = 0)) →
    (s.engine = .running cmd .start →
      ∃ d : Tick, d.toNat = min (s.tick.toNat + s.ioTimeout.toNat) (2 ^ 64 - 1) ∧
        exec i s = .next { s with deadline := d, engine := .running cmd (.lines [.guardEn (decide (s.ioTimeout ≠ 0))] .loop) } ∧
        execTimes 2 i s = .next
          { s with deadline := d, guardEn := decide (s.ioTimeout ≠ 0), engine := .running cmd (.lines [] .loop) }) ∧
    (s.engine = .running cmd (.lines [] .loop) → Issues i s cmd (.read s.devAddr reg .one)) ∧
    (∀ r, s.engine = .running cmd .await → s.bus = .answered r .fail → RaisesTransport i s r) ∧
    (∀ r v, s.engine = .running cmd .await → s.bus = .answered r (.ok v) →
      (hit v →
        exec i s = .next { s with bus := .idle, res := { s.res with r0 := v }, engine := .running cmd (.lines [] (.finish .none)) } ∧
        execTimes 2 i s = .next
          { s with bus := .idle, res := { s.res with r0 := v }, err := .none, done := true, engine := .idle }) ∧
      (¬ hit v → s.guardEn = true ∧ s.deadline.toNat < s.tick.toNat →
        exec i s = .next
          { s with bus := .idle, didTimeout := true, engine := .running cmd (.lines [.res 0 0xFFFF] (.finish .timeout)) } ∧
        execTimes 3 i s = .next
          { s with bus := .idle, didTimeout := true, res := { s.res with r0 := 0xFFFF }, err := .timeout, done := true,
                   engine := .idle }) ∧
      (¬ hit v → ¬ (s.guardEn = true ∧ s.deadline.toNat < s.tick.toNat) →
        exec i s = .next { s with bus := .idle, engine := .running cmd (.lines [] .loop) }))

/-- R189: a poll with GUARD_EN = 0 whose predicate never holds never ends: after any number of reads it stands where it stood. -/
def Obligations.AnUnboundedPollNeverEnds : Prop :=
  ∀ (reg mask : Byte) (s : State) (cmd : Word) (vs : List Word), s.engine = .running cmd (.lines [] .loop) → s.bus = .idle →
    s.guardEn = false →
    ((∀ v ∈ vs, v &&& zext mask = 0) → vs.foldl (fun u v => readRound (.pollNz reg mask) v u) s = s) ∧
    ((∀ v ∈ vs, v &&& zext mask ≠ 0) → vs.foldl (fun u v => readRound (.pollZ reg mask) v u) s = s)

/-! ## Sequencer and transport -/

/-- R151 to R154: each read issues its one request, and an Ok answer goes to RES0; RD8.CAP captures it as well. -/
def Obligations.ReadsIssueAndDeliver : Prop :=
  ∀ (s : State) (cmd : Word) (reg : Byte),
    EncodedAs (.rd8 reg) (reg.toNat * 256 + 0x20) True ∧ EncodedAs (.rd8Cap reg) (2 ^ 24 + reg.toNat * 256 + 0x20) True ∧
    EncodedAs (.rd16 reg) (reg.toNat * 256 + 0x21) (reg.toNat ≤ 0xFE) ∧
    EncodedAs (.rd32 reg) (reg.toNat * 256 + 0x22) (reg.toNat ≤ 0xFC) ∧
    (∀ i r, i = .rd8 reg ∨ i = .rd8Cap reg ∨ i = .rd16 reg ∨ i = .rd32 reg → s.engine = .running cmd .await →
      s.bus = .answered r .fail → RaisesTransport i s r) ∧
    (s.engine = .running cmd .start →
      Issues (.rd8 reg) s cmd (.read s.devAddr reg .one) ∧ Issues (.rd8Cap reg) s cmd (.read s.devAddr reg .one) ∧
      Issues (.rd16 reg) s cmd (.read s.devAddr reg .two) ∧ Issues (.rd32 reg) s cmd (.read s.devAddr reg .four)) ∧
    (∀ r v, s.engine = .running cmd .await → s.bus = .answered r (.ok v) →
      (∀ i, i = .rd8 reg ∨ i = .rd16 reg ∨ i = .rd32 reg →
        exec i s = .next { s with bus := .idle, res := { s.res with r0 := v }, engine := .running cmd (.lines [] (.finish .none)) } ∧
        execTimes 2 i s = .next
          { s with bus := .idle, res := { s.res with r0 := v }, err := .none, done := true, engine := .idle }) ∧
      exec (.rd8Cap reg) s = .next
        { s with bus := .idle, res := { s.res with r0 := v },
                 engine := .running cmd (.lines [.stopVar (v.setWidth 8), .stopValid] (.finish .none)) } ∧
      execTimes 4 (.rd8Cap reg) s = .next
        { s with bus := .idle, res := { s.res with r0 := v }, stopVar := v.setWidth 8, stopValid := true, err := .none, done := true,
                 engine := .idle })

/-- R155 to R158: each write issues its one request (WR8.SV only with STOP_VALID = 1, WR16 only with a 16-bit ARG0) and ends on an
Ok answer; a byte written to 0xFF goes to the bank shadow first (R150). -/
def Obligations.WritesIssueAndKeepTheShadow : Prop :=
  ∀ (s : State) (cmd : Word) (reg imm : Byte),
    EncodedAs (.wr8 reg imm) (imm.toNat * 65536 + reg.toNat * 256 + 0x24) True ∧
    EncodedAs (.wr8Sv reg) (2 ^ 24 + reg.toNat * 256 + 0x24) True ∧
    EncodedAs (.wr16 reg) (reg.toNat * 256 + 0x25) (reg.toNat ≤ 0xFD) ∧
    EncodedAs (.wr32 reg) (reg.toNat * 256 + 0x26) (reg.toNat ≤ 0xFB) ∧
    (∀ i r, i = .wr8 reg imm ∨ i = .wr8Sv reg ∨ i = .wr16 reg ∨ i = .wr32 reg → s.engine = .running cmd .await →
      s.bus = .answered r .fail → RaisesTransport i s r) ∧
    (s.engine = .running cmd .start →
      Issues (.wr8 reg imm) s cmd (.write s.devAddr reg .one (zext imm)) ∧
      (s.stopValid = true → Issues (.wr8Sv reg) s cmd (.write s.devAddr reg .one (zext s.stopVar))) ∧
      (s.stopValid = false → Raises (.wr8Sv reg) s .illegal) ∧
      (s.arg.r0.toNat < 0x10000 → Issues (.wr16 reg) s cmd (.write s.devAddr reg .two s.arg.r0)) ∧
      (0x10000 ≤ s.arg.r0.toNat → Raises (.wr16 reg) s .range) ∧
      Issues (.wr32 reg) s cmd (.write s.devAddr reg .four s.arg.r0)) ∧
    (∀ d a n w v, s.engine = .running cmd .await → s.bus = .answered (.write d a n w) (.ok v) →
      (∀ i, i = .wr16 reg ∨ i = .wr32 reg ∨ ((i = .wr8 reg imm ∨ i = .wr8Sv reg) ∧ a ≠ 0xFF) →
        exec i s = .next { s with bus := .idle, err := .none, done := true, engine := .idle }) ∧
      (∀ i, (i = .wr8 reg imm ∨ i = .wr8Sv reg) ∧ a = 0xFF →
        exec i s = .next { s with bus := .idle, bank := w.setWidth 8, engine := .running cmd (.lines [.bankValid] (.finish .none)) } ∧
        execTimes 3 i s = .next
          { s with bus := .idle, bank := w.setWidth 8, bankValid := true, err := .none, done := true, engine := .idle }))

/-- R160: the masked address is written to the old device, and DEV_ADDR takes it only after the Ok. -/
def Obligations.SetAddrMovesTheDeviceAfterTheWrite : Prop :=
  ∀ (s : State) (cmd : Word) (reg addr : Byte),
    EncodedAs (.setAddr reg addr) (addr.toNat * 65536 + reg.toNat * 256 + 0x2A) (reg.toNat ≤ 0xFE) ∧
    (∀ r, s.engine = .running cmd .await → s.bus = .answered r .fail → RaisesTransport (.setAddr reg addr) s r) ∧
    (s.engine = .running cmd .start →
      ∃ w : Word, w.toNat = addr.toNat % 128 ∧ Issues (.setAddr reg addr) s cmd (.write s.devAddr reg .one w)) ∧
    (∀ r v, s.engine = .running cmd .await → s.bus = .answered r (.ok v) →
      ∃ d : DevAddr, d.toNat = addr.toNat % 128 ∧
        exec (.setAddr reg addr) s = .next
          { s with bus := .idle, devAddr := d, engine := .running cmd (.lines [] (.finish .none)) } ∧
        execTimes 2 (.setAddr reg addr) s = .next
          { s with bus := .idle, devAddr := d, err := .none, done := true, engine := .idle })

/-- R159, turn by turn: SEQ_RUN clears CFG_VALID, sets SEQ_PC to 0, writes the entry SEQ_PC names while there is one, counts it after
its Ok, and at the table's end sets CFG_VALID and RES0 and ends. -/
def Obligations.SeqRunWritesTheEntryItStandsAt : Prop :=
  EncodedAs .seqRun 0x29 True ∧
  ∀ (s : State) (cmd : Word),
    (s.engine = .running cmd .start →
      exec .seqRun s = .next { s with cfgValid := false, engine := .running cmd (.lines [.seqPc 0] .loop) } ∧
      execTimes 2 .seqRun s = .next { s with cfgValid := false, seqPc := 0, engine := .running cmd (.lines [] .loop) }) ∧
    (s.engine = .running cmd (.lines [] .loop) →
      (∀ reg b, s.tuning[s.seqPc.toNat]? = some (reg, b) → Issues .seqRun s cmd (.write s.devAddr reg .one (zext b))) ∧
      (s.tuning.length ≤ s.seqPc.toNat →
        exec .seqRun s = .next
          { s with cfgValid := true, engine := .running cmd (.lines [.res 0 (word s.tuning.length)] (.finish .none)) } ∧
        execTimes 3 .seqRun s = .next
          { s with cfgValid := true, res := { s.res with r0 := word s.tuning.length }, err := .none, done := true,
                   engine := .idle })) ∧
    (∀ r, s.engine = .running cmd .await → s.bus = .answered r .fail → RaisesTransport .seqRun s r) ∧
    (∀ d reg n w v, s.engine = .running cmd .await → s.bus = .answered (.write d reg n w) (.ok v) →
      (reg ≠ 0xFF → exec .seqRun s = .next
        { s with bus := .idle, seqPc := s.seqPc + 1, engine := .running cmd (.lines [] .loop) }) ∧
      (reg = 0xFF →
        exec .seqRun s = .next
          { s with bus := .idle, bank := w.setWidth 8, engine := .running cmd (.lines [.bankValid, .seqPc (s.seqPc + 1)] .loop) } ∧
        execTimes 3 .seqRun s = .next
          { s with bus := .idle, bank := w.setWidth 8, bankValid := true, seqPc := s.seqPc + 1,
                   engine := .running cmd (.lines [] .loop) }))

/-- R159 as one run, for every table: with every write answered Ok, the requests SEQ_RUN issues are the table's entries in index order,
each once, as 1-byte writes, and no other; it ends with SEQ_PC at the table's length, CFG_VALID = 1, RES0 the length, and BANK the value
of the last entry at 0xFF (or unchanged). The sensor is as after serving those requests in turn: with DEV_ADDR its bus address and no entry
at its address register, it takes every entry; with another DEV_ADDR none. What an address reaches is the model's reading of R60 (log 4). -/
def Obligations.SeqRunReplaysTheWholeTable : Prop :=
  ∀ (s : State) (cmd : Word), s.engine = .running cmd .start → s.bus = .idle → s.tuning.length ≤ 65535 →
    let request := fun e : Byte × Byte => Request.write s.devAddr e.1 .one (zext e.2)
    let u := s.tuning.foldl (fun u e => sensorServes 15 (request e) .none u) s
    let w := s.tuning.foldl (fun u e => sensorTake e.1 e.2 u) s
    let banks := s.tuning.filter (fun e => e.1 == 0xFF)
    (∃ n, okRequests n .seqRun s = s.tuning.map request ∧
      okRounds n .seqRun s =
        { s with cfgValid := true, seqPc := BitVec.ofNat 16 s.tuning.length, res := { s.res with r0 := word s.tuning.length },
                 bank := (banks.getLast?.map (fun e => e.2)).getD s.bank, bankValid := s.bankValid || !banks.isEmpty,
                 sensor := u.sensor, sensorBank := u.sensorBank, sensorAddr := u.sensorAddr, err := .none, done := true,
                 engine := .idle }) ∧
    (s.devAddr = s.sensorAddr → (∀ e ∈ s.tuning, e.1 ≠ 0xFF → ∀ bank, Config.isAddrReg bank e.1 = false) → SensorUntouched w u) ∧
    (s.devAddr ≠ s.sensorAddr → SensorUntouched s u)

/-! ## Failed answers -/

/-- R81: an answer of Fail only delivers the failure to the port; of a failed WRITE to the sensor's address the sensor took, of the bytes
not yet transferred, exactly those the answer's mask names, whichever they are (log 6), and of one to another address, or of
the rest of one whose own byte has moved the sensor (log 20), nothing (log 4). That a failed READ changes nothing of the sensor is the
model's reading: R71 lets every register change when it is read, and in the model it does so by the sensor's own event (log 3). Without a request in flight nothing happens. -/
def Obligations.AFailedAnswerDeliversTheFailure : Prop :=
  ∀ (s : State) (took : BitVec 4),
    (∀ dev reg n p, s.bus = .pending (.read dev reg n) p →
      transportAnswers (.fail took) s = { s with bus := .answered (.read dev reg n) .fail }) ∧
    (∀ dev reg n v p, s.bus = .pending (.write dev reg n v) p →
      ∃ m b a, transportAnswers (.fail took) s =
          { s with sensor := m, sensorBank := b, sensorAddr := a, bus := .answered (.write dev reg n v) .fail } ∧
        (took = 0 ∨ dev ≠ s.sensorAddr → m = s.sensor ∧ b = s.sensorBank ∧ a = s.sensorAddr) ∧
        (dev = s.sensorAddr → s.sensor.wf = true →
          TakesBytes (fun j => took.getLsbD j && (p.get j).isNone) reg n v s { s with sensor := m, sensorBank := b, sensorAddr := a })) ∧
    ((∀ r p, s.bus ≠ .pending r p) → transportAnswers (.fail took) s = s)
end

