-- ==== Sys2Proof/Laws/Decode.lean ====
section
/-! SUPPORT. The fields of a packed command word (spec/30_encoding.md R90). -/

namespace Sys2Proof

/-- A packed word as a number. -/
theorem toNat_pack (opc reg imm : Byte) (f : Bool) :
    (pack opc reg imm f).toNat = f.toNat * 16777216 + imm.toNat * 65536 + reg.toNat * 256 + opc.toNat := by
  have h1 := opc.isLt
  have h2 := reg.isLt
  have h3 := imm.isLt
  have h4 := Bool.toNat_lt f
  rw [pack, BitVec.toNat_ofNat]
  omega

/-- A field of a word as a number. -/
theorem toNat_extractField (w : Word) (lo n : Nat) : (w.extractLsb' lo n).toNat = w.toNat / 2 ^ lo % 2 ^ n := by
  rw [BitVec.extractLsb'_toNat, Nat.shiftRight_eq_div_pow]

theorem digit_opc (a b c d : Nat) (hd : d < 256) : (a * 16777216 + b * 65536 + c * 256 + d) / 2 ^ 0 % 2 ^ 8 = d := by
  omega

theorem digit_reg (a b c d : Nat) (hd : d < 256) (hc : c < 256) :
    (a * 16777216 + b * 65536 + c * 256 + d) / 2 ^ 8 % 2 ^ 8 = c := by
  omega

theorem digit_imm (a b c d : Nat) (hd : d < 256) (hc : c < 256) (hb : b < 256) :
    (a * 16777216 + b * 65536 + c * 256 + d) / 2 ^ 16 % 2 ^ 8 = b := by
  omega

theorem digit_form (a b c d : Nat) (hd : d < 256) (hc : c < 256) (hb : b < 256) (ha : a < 2) :
    (a * 16777216 + b * 65536 + c * 256 + d) / 2 ^ 24 % 2 = a := by
  omega

theorem digit_rsv (a b c d : Nat) (hd : d < 256) (hc : c < 256) (hb : b < 256) (ha : a < 2) :
    (a * 16777216 + b * 65536 + c * 256 + d) / 2 ^ 25 % 2 ^ 7 = 0 := by
  omega

theorem digits_of (n : Nat) (hn : n < 2 ^ 32) (hr : n / 2 ^ 25 % 2 ^ 7 = 0) :
    n / 2 ^ 24 % 2 * 16777216 + n / 2 ^ 16 % 2 ^ 8 * 65536 + n / 2 ^ 8 % 2 ^ 8 * 256 + n / 2 ^ 0 % 2 ^ 8 = n := by
  omega

/-- The form flag of a word as a number. -/
theorem toNat_formField (w : Word) : (formField w).toNat = w.toNat / 2 ^ 24 % 2 := by
  rw [formField, BitVec.getLsbD, Nat.testBit_eq_decide_div_mod_eq]
  rcases Nat.mod_two_eq_zero_or_one (w.toNat / 2 ^ 24) with h | h <;> rw [h] <;> rfl

@[simp] theorem opcField_pack (opc reg imm : Byte) (f : Bool) : opcField (pack opc reg imm f) = opc := by
  apply BitVec.eq_of_toNat_eq
  rw [opcField, toNat_extractField, toNat_pack, digit_opc _ _ _ _ opc.isLt]

@[simp] theorem regField_pack (opc reg imm : Byte) (f : Bool) : regField (pack opc reg imm f) = reg := by
  apply BitVec.eq_of_toNat_eq
  rw [regField, toNat_extractField, toNat_pack, digit_reg _ _ _ _ opc.isLt reg.isLt]

@[simp] theorem immField_pack (opc reg imm : Byte) (f : Bool) : immField (pack opc reg imm f) = imm := by
  apply BitVec.eq_of_toNat_eq
  rw [immField, toNat_extractField, toNat_pack, digit_imm _ _ _ _ opc.isLt reg.isLt imm.isLt]

@[simp] theorem rsvField_pack (opc reg imm : Byte) (f : Bool) : rsvField (pack opc reg imm f) = 0 := by
  apply BitVec.eq_of_toNat_eq
  rw [rsvField, toNat_extractField, toNat_pack, digit_rsv _ _ _ _ opc.isLt reg.isLt imm.isLt (Bool.toNat_lt f)]
  rfl

@[simp] theorem formField_pack (opc reg imm : Byte) (f : Bool) : formField (pack opc reg imm f) = f := by
  have h : (formField (pack opc reg imm f)).toNat = f.toNat := by
    rw [toNat_formField, toNat_pack, digit_form _ _ _ _ opc.isLt reg.isLt imm.isLt (Bool.toNat_lt f)]
  revert h
  cases formField (pack opc reg imm f) <;> cases f <;> simp

/-- A word is packed from its own fields, where RSV is 0. -/
theorem pack_fields {w : Word} (h : rsvField w = 0) : pack (opcField w) (regField w) (immField w) (formField w) = w := by
  apply BitVec.eq_of_toNat_eq
  have h0 : (rsvField w).toNat = 0 := by
    rw [h]
    rfl
  rw [rsvField, toNat_extractField] at h0
  rw [toNat_pack, toNat_formField, opcField, regField, immField, toNat_extractField, toNat_extractField, toNat_extractField]
  exact digits_of w.toNat w.isLt h0

end Sys2Proof
end

