-- ==== Sys2Proof/Laws/Memory.lean ====
section
/-! SUPPORT. The laws of the sensor's register file: read after write, and the canonical form every operation keeps. -/

namespace Sys2Proof.Machine

open Sys2Proof

theorem Memory.wfFrom_weaken {lo hi : Nat} {m : Memory} (h : Memory.wfFrom hi m = true) (hle : lo ≤ hi) :
    Memory.wfFrom lo m = true := by
  cases m with
  | nil => rfl
  | cons c m =>
    obtain ⟨a, v⟩ := c
    simp only [Memory.wfFrom, Bool.and_eq_true, decide_eq_true_eq] at h ⊢
    obtain ⟨⟨⟨h1, h2⟩, h3⟩, h4⟩ := h
    exact ⟨⟨⟨by omega, h2⟩, h3⟩, h4⟩

/-- An address below every listed one is unlisted. -/
theorem Memory.read_below {lo a : Nat} {m : Memory} (h : Memory.wfFrom lo m = true) (ha : a < lo) :
    Memory.read m a = Memory.unlisted := by
  induction m generalizing lo with
  | nil => rfl
  | cons c m ih =>
    obtain ⟨b, v⟩ := c
    simp only [Memory.wfFrom, Bool.and_eq_true, decide_eq_true_eq] at h
    obtain ⟨⟨⟨h1, -⟩, -⟩, h4⟩ := h
    have hne : a ≠ b := by omega
    simp only [Memory.read, hne, if_false]
    exact ih h4 (by omega)

theorem Memory.wfFrom_write {lo a : Nat} {m : Memory} (v : Byte) (h : Memory.wfFrom lo m = true) (hlo : lo ≤ a)
    (ha : a < 65536) : Memory.wfFrom lo (m.write a v) = true := by
  induction m generalizing lo with
  | nil =>
    by_cases hv : v = Memory.unlisted
    · simp [Memory.write, hv, Memory.wfFrom]
    · simp [Memory.write, hv, Memory.wfFrom, hlo, ha]
  | cons c m ih =>
    obtain ⟨b, w⟩ := c
    simp only [Memory.wfFrom, Bool.and_eq_true, decide_eq_true_eq] at h
    obtain ⟨⟨⟨h1, h2⟩, h3⟩, h4⟩ := h
    by_cases hab : a < b
    · by_cases hv : v = Memory.unlisted
      · simp [Memory.write, hab, hv, Memory.wfFrom, h1, h2, h3, h4]
      · have h5 : Memory.wfFrom (a + 1) ((b, w) :: m) = true := by
          simp [Memory.wfFrom, h2, h3, h4]
          omega
        simp only [Memory.write, hab, hv, if_true, if_false]
        rw [Memory.wfFrom]
        simp [hlo, ha, hv, h5]
    · by_cases he : a = b
      · subst he
        by_cases hv : v = Memory.unlisted
        · simp [Memory.write, hv, Memory.wfFrom_weaken h4 (by omega : lo ≤ a + 1)]
        · simp [Memory.write, hv, Memory.wfFrom, h1, h2, h4]
      · simp [Memory.write, hab, he, Memory.wfFrom, h1, h2, h3, ih h4 (by omega)]

/-- A write keeps the canonical form. -/
theorem Memory.wf_write {a : Nat} {m : Memory} (v : Byte) (h : m.wf = true) (ha : a < 65536) : (m.write a v).wf = true :=
  Memory.wfFrom_write v h (Nat.zero_le a) ha

theorem Memory.read_writeFrom {lo a : Nat} {m : Memory} (v : Byte) (b : Nat) (h : Memory.wfFrom lo m = true) :
    (m.write a v).read b = if b = a then v else m.read b := by
  induction m generalizing lo with
  | nil => by_cases hv : v = Memory.unlisted <;> simp [Memory.write, hv, Memory.read]
  | cons c m ih =>
    obtain ⟨d, w⟩ := c
    simp only [Memory.wfFrom, Bool.and_eq_true, decide_eq_true_eq] at h
    obtain ⟨⟨⟨h1, h2⟩, h3⟩, h4⟩ := h
    by_cases had : a < d
    · by_cases hv : v = Memory.unlisted
      · simp only [Memory.write, had, hv, if_true]
        by_cases hba : b = a
        · have : b ≠ d := by omega
          simp [Memory.read, hba, Nat.ne_of_lt had, Memory.read_below h4 (by omega : a < d + 1)]
        · simp [hba]
      · simp [Memory.write, had, hv, Memory.read]
    · by_cases he : a = d
      · subst he
        by_cases hv : v = Memory.unlisted
        · by_cases hba : b = a
          · subst hba
            simp [Memory.write, hv, Memory.read_below h4 (by omega : b < b + 1)]
          · simp [Memory.write, hv, Memory.read, hba]
        · by_cases hba : b = a <;> simp [Memory.write, hv, Memory.read, hba]
      · by_cases hbd : b = d
        · have : b ≠ a := fun h => he (by omega)
          simp [Memory.write, had, he, Memory.read, hbd, Ne.symm he]
        · simp [Memory.write, had, he, Memory.read, hbd, ih h4]

/-- A read after a write to the same register gives the byte written. -/
theorem Memory.read_write_same {a : Nat} {m : Memory} (v : Byte) (h : m.wf = true) : (m.write a v).read a = v := by
  simp [Memory.read_writeFrom v a h]

/-- A write leaves every other register alone. -/
theorem Memory.read_write_other {a b : Nat} {m : Memory} (v : Byte) (h : m.wf = true) (hne : b ≠ a) :
    (m.write a v).read b = m.read b := by
  simp [Memory.read_writeFrom v b h, hne]

/-- Every physical register has an address below 65536. -/
theorem physAddr_lt (bank reg : Byte) : physAddr bank reg < 65536 := by
  have h1 := bank.isLt
  have h2 := reg.isLt
  unfold physAddr
  omega

/-- Different physical registers have different addresses. -/
theorem physAddr_inj {b1 r1 b2 r2 : Byte} (h : physAddr b1 r1 = physAddr b2 r2) : b1 = b2 ∧ r1 = r2 := by
  have h1 := r1.isLt
  have h2 := r2.isLt
  unfold physAddr at h
  exact ⟨BitVec.eq_of_toNat_eq (by omega), BitVec.eq_of_toNat_eq (by omega)⟩

/-- Everything that taking one byte can do: select the bank, or write one register and, at an address register, move the sensor. -/
theorem sensorTake_cases (reg b : Byte) (s : State) :
    (reg = 0xFF#8 ∧ sensorTake reg b s = { s with sensorBank := b }) ∨
    (reg ≠ 0xFF#8 ∧ sensorTake reg b s =
      { s with
        sensor := s.sensor.write (physAddr s.sensorBank reg) b
        sensorAddr := if Config.isAddrReg s.sensorBank reg then b.setWidth 7 else s.sensorAddr }) := by
  unfold sensorTake
  split
  · exact .inl ⟨by assumption, rfl⟩
  · exact .inr ⟨by assumption, rfl⟩

theorem sensorTake_wf {s : State} (reg b : Byte) (h : s.sensor.wf = true) : (sensorTake reg b s).sensor.wf = true := by
  obtain ⟨-, e⟩ | ⟨-, e⟩ := sensorTake_cases reg b s <;> rw [e]
  · exact h
  · exact Memory.wf_write b h (physAddr_lt _ _)

/-- A byte is left exactly where it has not been transferred. -/
theorem Transfer.getLsbD_left (p : Transfer) {k : Nat} (hk : k < 4) : p.left.getLsbD k = (p.get k).isNone := by
  unfold Transfer.left
  obtain rfl | rfl | rfl | rfl : k = 0 ∨ k = 1 ∨ k = 2 ∨ k = 3 := by omega
  all_goals
    simp only [Transfer.get]
    generalize p.b0.isNone = a
    generalize p.b1.isNone = b
    generalize p.b2.isNone = c
    generalize p.b3.isNone = d
    revert a b c d
    decide

/-- After transferring byte `k` that byte is there, and every other is as before. -/
theorem Transfer.get_set (p : Transfer) {k : Nat} (j : Nat) (b : Byte) (hk : k < 4) :
    (p.set k b).get j = if j = k then some b else p.get j := by
  obtain rfl | rfl | rfl | rfl : k = 0 ∨ k = 1 ∨ k = 2 ∨ k = 3 := by omega
  all_goals
    by_cases h : j < 4
    · obtain rfl | rfl | rfl | rfl : j = 0 ∨ j = 1 ∨ j = 2 ∨ j = 3 := by omega
      all_goals rfl
    · obtain ⟨m, rfl⟩ : ∃ m, j = m + 4 := ⟨j - 4, by omega⟩
      simp [Transfer.get]

theorem wireBytes_length (n : Width) (v : Word) : (wireBytes n v).length = n.bytes := by cases n <;> rfl

/-- Wire byte `k` of a write is byte `n - 1 - k` of its value (20_memory.md R63). -/
theorem wireBytes_toNat (n : Width) (v : Word) (k : Nat) (hk : k < (wireBytes n v).length) :
    ((wireBytes n v)[k]).toNat = v.toNat / 256 ^ (n.bytes - 1 - k) % 256 := by
  cases n
  · obtain rfl : k = 0 := by simp [wireBytes] at hk; omega
    simp [wireBytes, Width.bytes]
  · obtain rfl | rfl : k = 0 ∨ k = 1 := by simp [wireBytes] at hk; omega
    all_goals simp [wireBytes, Width.bytes, Nat.shiftRight_eq_div_pow]
  · obtain rfl | rfl | rfl | rfl : k = 0 ∨ k = 1 ∨ k = 2 ∨ k = 3 := by simp [wireBytes] at hk; omega
    all_goals simp [wireBytes, Width.bytes, Nat.shiftRight_eq_div_pow]

@[simp] theorem State.withSensor_self (s : State) : s.withSensor s = s := rfl

/-- Taking bytes changes only the sensor. -/
theorem takeBytes_frame (bs : List Byte) (reg : Byte) (took : BitVec 4) (s : State) :
    takeBytes bs reg took s = s.withSensor (takeBytes bs reg took s) := by
  induction bs generalizing reg took s with
  | nil => rfl
  | cons b bs ih =>
    simp only [takeBytes]
    rw [ih]
    split
    · obtain ⟨-, e⟩ | ⟨-, e⟩ := sensorTake_cases reg b s <;> simp [e, State.withSensor]
    · rfl

theorem takeBytes_wf {s : State} (bs : List Byte) (reg : Byte) (took : BitVec 4) (h : s.sensor.wf = true) :
    (takeBytes bs reg took s).sensor.wf = true := by
  induction bs generalizing reg took s with
  | nil => exact h
  | cons b bs ih =>
    simp only [takeBytes]
    refine ih _ _ ?_
    split
    · exact sensorTake_wf reg b h
    · exact h

/-- A write of which no byte is taken does nothing to the sensor. -/
@[simp] theorem takeBytes_none (bs : List Byte) (reg : Byte) (s : State) : takeBytes bs reg 0#4 s = s := by
  induction bs generalizing reg with
  | nil => rfl
  | cons b bs ih => exact ih (reg + 1)

/-- Below register 0xFF each byte of a write that is taken stands in its register of the current bank; every other register, and the
bank, are as before. -/
theorem takeBytes_below {s : State} (bs : List Byte) (reg : Byte) (took : BitVec 4) (h : s.sensor.wf = true)
    (hr : reg.toNat + bs.length ≤ 0xFF) :
    (takeBytes bs reg took s).sensorBank = s.sensorBank ∧
    (∀ k (hk : k < bs.length), (takeBytes bs reg took s).sensor.read (physAddr s.sensorBank reg + k) =
      if took.getLsbD k then bs[k] else s.sensor.read (physAddr s.sensorBank reg + k)) ∧
    (∀ a, (∀ k, k < bs.length → a ≠ physAddr s.sensorBank reg + k) → (takeBytes bs reg took s).sensor.read a = s.sensor.read a) := by
  induction bs generalizing reg took s with
  | nil => exact ⟨rfl, fun k hk => absurd hk (Nat.not_lt_zero k), fun a _ => rfl⟩
  | cons b bs ih =>
    simp only [List.length_cons] at hr
    have hne : reg ≠ 0xFF#8 := fun e => by subst e; simp at hr
    have hnext : (reg + 1).toNat = reg.toNat + 1 := by
      simp only [BitVec.toNat_add]
      exact Nat.mod_eq_of_lt (by simp; omega)
    have hphys : ∀ bank, physAddr bank (reg + 1) = physAddr bank reg + 1 := fun bank => by simp only [physAddr, hnext]; omega
    obtain ⟨u, hu, hb, hw, hself, hother⟩ : ∃ u : State, (if took.getLsbD 0 then sensorTake reg b s else s) = u ∧
        u.sensorBank = s.sensorBank ∧ u.sensor.wf = true ∧
        u.sensor.read (physAddr s.sensorBank reg) = (if took.getLsbD 0 then b else s.sensor.read (physAddr s.sensorBank reg)) ∧
        ∀ a, a ≠ physAddr s.sensorBank reg → u.sensor.read a = s.sensor.read a := by
      refine ⟨_, rfl, ?_⟩
      cases took.getLsbD 0
      · exact ⟨rfl, h, rfl, fun _ _ => rfl⟩
      · simp only [sensorTake, hne, ↓reduceIte, true_and]
        exact ⟨Memory.wf_write b h (physAddr_lt _ _), Memory.read_write_same b h, fun a ha => Memory.read_write_other b h ha⟩
    have e : takeBytes (b :: bs) reg took s = takeBytes bs (reg + 1) (took >>> 1) u := by rw [← hu]; rfl
    obtain ⟨i1, i2, i3⟩ := ih (reg + 1) (took >>> 1) hw (by omega)
    rw [hb, hphys] at i2 i3
    rw [e]
    refine ⟨i1.trans hb, fun k hk => ?_, fun a ha => ?_⟩
    · cases k with
      | zero =>
        rw [i3 _ (fun k _ => by omega)]
        exact hself
      | succ k =>
        have hk' : k < bs.length := by simp only [List.length_cons] at hk; omega
        have := i2 k hk'
        rw [show physAddr s.sensorBank reg + 1 + k = physAddr s.sensorBank reg + (k + 1) from by omega, hother _ (by omega)] at this
        rw [this, BitVec.getLsbD_ushiftRight, Nat.add_comm 1 k]
        rfl
    · have h0 := ha 0 (by simp)
      rw [i3 a (fun k hk => by have := ha (k + 1) (by simp only [List.length_cons]; omega); omega), hother a (by omega)]

/-- Below register 0xFF the sensor's bus address moves only by a taken byte at an address register, and the last such byte says where. -/
theorem takeBytes_addr {s : State} (bs : List Byte) (reg : Byte) (took : BitVec 4) (hr : reg.toNat + bs.length ≤ 0xFF) :
    ((∀ k, k < bs.length → took.getLsbD k = true → Config.isAddrReg s.sensorBank (reg + BitVec.ofNat 8 k) = false) →
      (takeBytes bs reg took s).sensorAddr = s.sensorAddr) ∧
    (∀ k (hk : k < bs.length), took.getLsbD k = true → Config.isAddrReg s.sensorBank (reg + BitVec.ofNat 8 k) = true →
      (∀ j, k < j → j < bs.length → took.getLsbD j = true → Config.isAddrReg s.sensorBank (reg + BitVec.ofNat 8 j) = false) →
      (takeBytes bs reg took s).sensorAddr = bs[k].setWidth 7) := by
  induction bs generalizing reg took s with
  | nil => exact ⟨fun _ => rfl, fun k hk => absurd hk (Nat.not_lt_zero k)⟩
  | cons b bs ih =>
    simp only [List.length_cons] at hr
    have hne : reg ≠ 0xFF#8 := fun e => by subst e; simp at hr
    have hnext : (reg + 1).toNat = reg.toNat + 1 := by
      simp only [BitVec.toNat_add]
      exact Nat.mod_eq_of_lt (by simp; omega)
    have hshift : ∀ k, (took >>> 1).getLsbD k = took.getLsbD (k + 1) := fun k => by rw [BitVec.getLsbD_ushiftRight, Nat.add_comm]
    have hreg : ∀ k, reg + 1 + BitVec.ofNat 8 k = reg + BitVec.ofNat 8 (k + 1) := fun k => by
      rw [BitVec.add_assoc, Nat.add_comm, BitVec.ofNat_add]; rfl
    obtain ⟨u, hu, hb, ha⟩ : ∃ u : State, (if took.getLsbD 0 then sensorTake reg b s else s) = u ∧ u.sensorBank = s.sensorBank ∧
        u.sensorAddr = if took.getLsbD 0 ∧ Config.isAddrReg s.sensorBank reg then b.setWidth 7 else s.sensorAddr := by
      refine ⟨_, rfl, ?_⟩
      cases took.getLsbD 0 <;> simp [sensorTake, hne]
    have e : takeBytes (b :: bs) reg took s = takeBytes bs (reg + 1) (took >>> 1) u := by rw [← hu]; rfl
    obtain ⟨i1, i2⟩ := ih (s := u) (reg + 1) (took >>> 1) (by omega)
    simp only [hb, hshift, hreg] at i1 i2
    rw [e]
    refine ⟨fun hn => ?_, fun k hk ht hy hl => ?_⟩
    · rw [i1 fun k hk => hn (k + 1) (by simp only [List.length_cons]; omega), ha, if_neg]
      rintro ⟨h0, h1⟩
      have := hn 0 (by simp) h0
      simp [h1] at this
    · cases k with
      | zero =>
        rw [i1 fun k hk => hl (k + 1) (by omega) (by simp only [List.length_cons]; omega), ha, if_pos]
        · rfl
        · exact ⟨ht, by simpa using hy⟩
      | succ k =>
        exact i2 k (by simp only [List.length_cons] at hk; omega) ht hy
          fun j hj hjl => hl (j + 1) (by omega) (by simp only [List.length_cons]; omega)

/-- Everything serving a request can do: nothing, or the taking of the named bytes of a WRITE to the sensor's own address. -/
theorem sensorServes_cases (took : BitVec 4) (r : Request) (p : Transfer) (s : State) :
    sensorServes took r p s = s ∨
    ∃ dev reg n v, r = .write dev reg n v ∧ dev = s.sensorAddr ∧
      sensorServes took r p s = takeBytes (wireBytes n v) reg (took &&& p.left) s := by
  cases r with
  | read => exact .inl rfl
  | write dev reg n v =>
    by_cases h : dev = s.sensorAddr
    · exact .inr ⟨dev, reg, n, v, rfl, h, by simp [sensorServes, h]⟩
    · exact .inl (by simp [sensorServes, h])

/-- Serving a request changes only the sensor. -/
theorem sensorServes_frame (took : BitVec 4) (r : Request) (p : Transfer) (s : State) :
    sensorServes took r p s = s.withSensor (sensorServes took r p s) := by
  obtain e | ⟨dev, reg, n, v, -, -, e⟩ := sensorServes_cases took r p s <;> rw [e]
  · rfl
  · exact takeBytes_frame _ _ _ _

theorem sensorServes_wf {s : State} (took : BitVec 4) (r : Request) (p : Transfer) (h : s.sensor.wf = true) :
    (sensorServes took r p s).sensor.wf = true := by
  obtain e | ⟨dev, reg, n, v, -, -, e⟩ := sensorServes_cases took r p s <;> rw [e]
  · exact h
  · exact takeBytes_wf _ _ _ h

theorem sensorChanges_wf {s : State} (bank reg v : Byte) (h : s.sensor.wf = true) : (sensorChanges bank reg v s).sensor.wf = true := by
  unfold sensorChanges
  split
  · exact h
  · exact Memory.wf_write v h (physAddr_lt _ _)

/-- Everything that transferring one byte of a request, or answering it, can do: nothing, a change of the port alone, or the sensor's
serving of it and a change of the port. -/
theorem transfersByte_cases (k : Nat) (free : Byte) (s : State) :
    transfersByte k free s = s ∨ (∃ b, transfersByte k free s = { s with bus := b }) ∨
    ∃ r p b, s.bus = .pending r p ∧
      transfersByte k free s = { s.withSensor (sensorServes (1#4 <<< k) r p s) with bus := b } := by
  unfold transfersByte
  split
  · split
    · exact .inr (.inl ⟨_, rfl⟩)
    · exact .inl rfl
  · split
    · exact .inr (.inr ⟨_, _, _, by assumption, rfl⟩)
    · exact .inl rfl
  · exact .inl rfl
  · exact .inl rfl

theorem transportAnswers_cases (a : Answer) (s : State) :
    transportAnswers a s = s ∨ (∃ b, transportAnswers a s = { s with bus := b }) ∨
    ∃ took r p b, s.bus = .pending r p ∧ transportAnswers a s = { s.withSensor (sensorServes took r p s) with bus := b } := by
  unfold transportAnswers
  split
  · split <;> exact .inr (.inl ⟨_, rfl⟩)
  · split <;> exact .inr (.inr ⟨_, _, _, _, by assumption, rfl⟩)
  · exact .inl rfl
  · exact .inl rfl

theorem transfersByte_wf {s : State} (k : Nat) (free : Byte) (h : s.sensor.wf = true) : (transfersByte k free s).sensor.wf = true := by
  obtain e | ⟨b, e⟩ | ⟨r, p, b, -, e⟩ := transfersByte_cases k free s <;> rw [e]
  · exact h
  · exact h
  · exact sensorServes_wf _ r p h

theorem transportAnswers_wf {s : State} (a : Answer) (h : s.sensor.wf = true) : (transportAnswers a s).sensor.wf = true := by
  obtain e | ⟨b, e⟩ | ⟨took, r, p, b, -, e⟩ := transportAnswers_cases a s <;> rw [e]
  · exact h
  · exact h
  · exact sensorServes_wf took r p h

/-- Transferring a byte changes only the port and the sensor. -/
theorem transfersByte_frame (k : Nat) (free : Byte) (s : State) :
    transfersByte k free s = { s.withSensor (transfersByte k free s) with bus := (transfersByte k free s).bus } := by
  obtain e | ⟨b, e⟩ | ⟨r, p, b, -, e⟩ := transfersByte_cases k free s <;> rw [e] <;> rfl

/-- The transport's answer changes only the port and the sensor. -/
theorem transportAnswers_frame (a : Answer) (s : State) :
    transportAnswers a s = { s.withSensor (transportAnswers a s) with bus := (transportAnswers a s).bus } := by
  obtain e | ⟨b, e⟩ | ⟨took, r, p, b, -, e⟩ := transportAnswers_cases a s <;> rw [e] <;> rfl

end Sys2Proof.Machine
end

