-- ==== Sys2Proof/Laws/State.lean ====
section
/-! SUPPORT. What each update of the state does to each field: one lemma per field per update, for simp. -/

namespace Sys2Proof.Machine

open Sys2Proof


@[simp] theorem complete_arg (e : ErrCode) (s : State) : (complete e s).arg = s.arg := rfl
@[simp] theorem complete_res (e : ErrCode) (s : State) : (complete e s).res = s.res := rfl
@[simp] theorem complete_done (e : ErrCode) (s : State) : (complete e s).done = true := rfl
@[simp] theorem complete_err (e : ErrCode) (s : State) : (complete e s).err = e := rfl
@[simp] theorem complete_overrun (e : ErrCode) (s : State) : (complete e s).overrun = s.overrun := rfl
@[simp] theorem complete_bankValid (e : ErrCode) (s : State) : (complete e s).bankValid = s.bankValid := rfl
@[simp] theorem complete_cfgValid (e : ErrCode) (s : State) : (complete e s).cfgValid = s.cfgValid := rfl
@[simp] theorem complete_guardEn (e : ErrCode) (s : State) : (complete e s).guardEn = s.guardEn := rfl
@[simp] theorem complete_stopValid (e : ErrCode) (s : State) : (complete e s).stopValid = s.stopValid := rfl
@[simp] theorem complete_ioTimeout (e : ErrCode) (s : State) : (complete e s).ioTimeout = s.ioTimeout := rfl
@[simp] theorem complete_deadline (e : ErrCode) (s : State) : (complete e s).deadline = s.deadline := rfl
@[simp] theorem complete_devAddr (e : ErrCode) (s : State) : (complete e s).devAddr = s.devAddr := rfl
@[simp] theorem complete_bank (e : ErrCode) (s : State) : (complete e s).bank = s.bank := rfl
@[simp] theorem complete_stopVar (e : ErrCode) (s : State) : (complete e s).stopVar = s.stopVar := rfl
@[simp] theorem complete_budgetUs (e : ErrCode) (s : State) : (complete e s).budgetUs = s.budgetUs := rfl
@[simp] theorem complete_seqPc (e : ErrCode) (s : State) : (complete e s).seqPc = s.seqPc := rfl
@[simp] theorem complete_tuning (e : ErrCode) (s : State) : (complete e s).tuning = s.tuning := rfl
@[simp] theorem complete_didTimeout (e : ErrCode) (s : State) : (complete e s).didTimeout = s.didTimeout := rfl
@[simp] theorem complete_engine (e : ErrCode) (s : State) : (complete e s).engine = .idle := rfl
@[simp] theorem complete_bus (e : ErrCode) (s : State) : (complete e s).bus = s.bus := rfl
@[simp] theorem complete_tick (e : ErrCode) (s : State) : (complete e s).tick = s.tick := rfl
@[simp] theorem complete_sensorBank (e : ErrCode) (s : State) : (complete e s).sensorBank = s.sensorBank := rfl
@[simp] theorem complete_sensorAddr (e : ErrCode) (s : State) : (complete e s).sensorAddr = s.sensorAddr := rfl
@[simp] theorem complete_sensor (e : ErrCode) (s : State) : (complete e s).sensor = s.sensor := rfl
@[simp] theorem complete_readData (e : ErrCode) (s : State) : (complete e s).readData = s.readData := rfl
@[simp] theorem complete_next (e : ErrCode) (s : State) : (complete e s).next = s.next := rfl
@[simp] theorem complete_draws (e : ErrCode) (s : State) : (complete e s).draws = s.draws := rfl

@[simp] theorem startCommand_arg (w : Word) (s : State) : (startCommand w s).arg = s.arg := rfl
@[simp] theorem startCommand_res (w : Word) (s : State) : (startCommand w s).res = s.res := rfl
@[simp] theorem startCommand_done (w : Word) (s : State) : (startCommand w s).done = false := rfl
@[simp] theorem startCommand_err (w : Word) (s : State) : (startCommand w s).err = .none := rfl
@[simp] theorem startCommand_overrun (w : Word) (s : State) : (startCommand w s).overrun = s.overrun := rfl
@[simp] theorem startCommand_bankValid (w : Word) (s : State) : (startCommand w s).bankValid = s.bankValid := rfl
@[simp] theorem startCommand_cfgValid (w : Word) (s : State) : (startCommand w s).cfgValid = s.cfgValid := rfl
@[simp] theorem startCommand_guardEn (w : Word) (s : State) : (startCommand w s).guardEn = s.guardEn := rfl
@[simp] theorem startCommand_stopValid (w : Word) (s : State) : (startCommand w s).stopValid = s.stopValid := rfl
@[simp] theorem startCommand_ioTimeout (w : Word) (s : State) : (startCommand w s).ioTimeout = s.ioTimeout := rfl
@[simp] theorem startCommand_deadline (w : Word) (s : State) : (startCommand w s).deadline = s.deadline := rfl
@[simp] theorem startCommand_devAddr (w : Word) (s : State) : (startCommand w s).devAddr = s.devAddr := rfl
@[simp] theorem startCommand_bank (w : Word) (s : State) : (startCommand w s).bank = s.bank := rfl
@[simp] theorem startCommand_stopVar (w : Word) (s : State) : (startCommand w s).stopVar = s.stopVar := rfl
@[simp] theorem startCommand_budgetUs (w : Word) (s : State) : (startCommand w s).budgetUs = s.budgetUs := rfl
@[simp] theorem startCommand_seqPc (w : Word) (s : State) : (startCommand w s).seqPc = s.seqPc := rfl
@[simp] theorem startCommand_tuning (w : Word) (s : State) : (startCommand w s).tuning = s.tuning := rfl
@[simp] theorem startCommand_didTimeout (w : Word) (s : State) : (startCommand w s).didTimeout = s.didTimeout := rfl
@[simp] theorem startCommand_engine (w : Word) (s : State) : (startCommand w s).engine = .running w .start := rfl
@[simp] theorem startCommand_bus (w : Word) (s : State) : (startCommand w s).bus = s.bus := rfl
@[simp] theorem startCommand_tick (w : Word) (s : State) : (startCommand w s).tick = s.tick := rfl
@[simp] theorem startCommand_sensorBank (w : Word) (s : State) : (startCommand w s).sensorBank = s.sensorBank := rfl
@[simp] theorem startCommand_sensorAddr (w : Word) (s : State) : (startCommand w s).sensorAddr = s.sensorAddr := rfl
@[simp] theorem startCommand_sensor (w : Word) (s : State) : (startCommand w s).sensor = s.sensor := rfl
@[simp] theorem startCommand_readData (w : Word) (s : State) : (startCommand w s).readData = s.readData := rfl
@[simp] theorem startCommand_next (w : Word) (s : State) : (startCommand w s).next = s.next := rfl
@[simp] theorem startCommand_draws (w : Word) (s : State) : (startCommand w s).draws = s.draws := rfl

@[simp] theorem tickMoves_arg (t : Tick) (s : State) : (tickMoves t s).arg = s.arg := rfl
@[simp] theorem tickMoves_res (t : Tick) (s : State) : (tickMoves t s).res = s.res := rfl
@[simp] theorem tickMoves_done (t : Tick) (s : State) : (tickMoves t s).done = s.done := rfl
@[simp] theorem tickMoves_err (t : Tick) (s : State) : (tickMoves t s).err = s.err := rfl
@[simp] theorem tickMoves_overrun (t : Tick) (s : State) : (tickMoves t s).overrun = s.overrun := rfl
@[simp] theorem tickMoves_bankValid (t : Tick) (s : State) : (tickMoves t s).bankValid = s.bankValid := rfl
@[simp] theorem tickMoves_cfgValid (t : Tick) (s : State) : (tickMoves t s).cfgValid = s.cfgValid := rfl
@[simp] theorem tickMoves_guardEn (t : Tick) (s : State) : (tickMoves t s).guardEn = s.guardEn := rfl
@[simp] theorem tickMoves_stopValid (t : Tick) (s : State) : (tickMoves t s).stopValid = s.stopValid := rfl
@[simp] theorem tickMoves_ioTimeout (t : Tick) (s : State) : (tickMoves t s).ioTimeout = s.ioTimeout := rfl
@[simp] theorem tickMoves_deadline (t : Tick) (s : State) : (tickMoves t s).deadline = s.deadline := rfl
@[simp] theorem tickMoves_devAddr (t : Tick) (s : State) : (tickMoves t s).devAddr = s.devAddr := rfl
@[simp] theorem tickMoves_bank (t : Tick) (s : State) : (tickMoves t s).bank = s.bank := rfl
@[simp] theorem tickMoves_stopVar (t : Tick) (s : State) : (tickMoves t s).stopVar = s.stopVar := rfl
@[simp] theorem tickMoves_budgetUs (t : Tick) (s : State) : (tickMoves t s).budgetUs = s.budgetUs := rfl
@[simp] theorem tickMoves_seqPc (t : Tick) (s : State) : (tickMoves t s).seqPc = s.seqPc := rfl
@[simp] theorem tickMoves_tuning (t : Tick) (s : State) : (tickMoves t s).tuning = s.tuning := rfl
@[simp] theorem tickMoves_didTimeout (t : Tick) (s : State) : (tickMoves t s).didTimeout = s.didTimeout := rfl
@[simp] theorem tickMoves_engine (t : Tick) (s : State) : (tickMoves t s).engine = s.engine := rfl
@[simp] theorem tickMoves_bus (t : Tick) (s : State) : (tickMoves t s).bus = s.bus := rfl
@[simp] theorem tickMoves_tick (t : Tick) (s : State) : (tickMoves t s).tick = if s.tick.toNat ≤ t.toNat then t else s.tick := rfl
@[simp] theorem tickMoves_sensorBank (t : Tick) (s : State) : (tickMoves t s).sensorBank = s.sensorBank := rfl
@[simp] theorem tickMoves_sensorAddr (t : Tick) (s : State) : (tickMoves t s).sensorAddr = s.sensorAddr := rfl
@[simp] theorem tickMoves_sensor (t : Tick) (s : State) : (tickMoves t s).sensor = s.sensor := rfl
@[simp] theorem tickMoves_readData (t : Tick) (s : State) : (tickMoves t s).readData = s.readData := rfl
@[simp] theorem tickMoves_next (t : Tick) (s : State) : (tickMoves t s).next = s.next := rfl
@[simp] theorem tickMoves_draws (t : Tick) (s : State) : (tickMoves t s).draws = s.draws := rfl

@[simp] theorem setPos_arg (p : Pos) (s : State) : (setPos p s).arg = s.arg := by
  unfold setPos
  split <;> rfl
@[simp] theorem setPos_res (p : Pos) (s : State) : (setPos p s).res = s.res := by
  unfold setPos
  split <;> rfl
@[simp] theorem setPos_done (p : Pos) (s : State) : (setPos p s).done = s.done := by
  unfold setPos
  split <;> rfl
@[simp] theorem setPos_err (p : Pos) (s : State) : (setPos p s).err = s.err := by
  unfold setPos
  split <;> rfl
@[simp] theorem setPos_overrun (p : Pos) (s : State) : (setPos p s).overrun = s.overrun := by
  unfold setPos
  split <;> rfl
@[simp] theorem setPos_bankValid (p : Pos) (s : State) : (setPos p s).bankValid = s.bankValid := by
  unfold setPos
  split <;> rfl
@[simp] theorem setPos_cfgValid (p : Pos) (s : State) : (setPos p s).cfgValid = s.cfgValid := by
  unfold setPos
  split <;> rfl
@[simp] theorem setPos_guardEn (p : Pos) (s : State) : (setPos p s).guardEn = s.guardEn := by
  unfold setPos
  split <;> rfl
@[simp] theorem setPos_stopValid (p : Pos) (s : State) : (setPos p s).stopValid = s.stopValid := by
  unfold setPos
  split <;> rfl
@[simp] theorem setPos_ioTimeout (p : Pos) (s : State) : (setPos p s).ioTimeout = s.ioTimeout := by
  unfold setPos
  split <;> rfl
@[simp] theorem setPos_deadline (p : Pos) (s : State) : (setPos p s).deadline = s.deadline := by
  unfold setPos
  split <;> rfl
@[simp] theorem setPos_devAddr (p : Pos) (s : State) : (setPos p s).devAddr = s.devAddr := by
  unfold setPos
  split <;> rfl
@[simp] theorem setPos_bank (p : Pos) (s : State) : (setPos p s).bank = s.bank := by
  unfold setPos
  split <;> rfl
@[simp] theorem setPos_stopVar (p : Pos) (s : State) : (setPos p s).stopVar = s.stopVar := by
  unfold setPos
  split <;> rfl
@[simp] theorem setPos_budgetUs (p : Pos) (s : State) : (setPos p s).budgetUs = s.budgetUs := by
  unfold setPos
  split <;> rfl
@[simp] theorem setPos_seqPc (p : Pos) (s : State) : (setPos p s).seqPc = s.seqPc := by
  unfold setPos
  split <;> rfl
@[simp] theorem setPos_tuning (p : Pos) (s : State) : (setPos p s).tuning = s.tuning := by
  unfold setPos
  split <;> rfl
@[simp] theorem setPos_didTimeout (p : Pos) (s : State) : (setPos p s).didTimeout = s.didTimeout := by
  unfold setPos
  split <;> rfl
@[simp] theorem setPos_bus (p : Pos) (s : State) : (setPos p s).bus = s.bus := by
  unfold setPos
  split <;> rfl
@[simp] theorem setPos_tick (p : Pos) (s : State) : (setPos p s).tick = s.tick := by
  unfold setPos
  split <;> rfl
@[simp] theorem setPos_sensorBank (p : Pos) (s : State) : (setPos p s).sensorBank = s.sensorBank := by
  unfold setPos
  split <;> rfl
@[simp] theorem setPos_sensorAddr (p : Pos) (s : State) : (setPos p s).sensorAddr = s.sensorAddr := by
  unfold setPos
  split <;> rfl
@[simp] theorem setPos_sensor (p : Pos) (s : State) : (setPos p s).sensor = s.sensor := by
  unfold setPos
  split <;> rfl
@[simp] theorem setPos_readData (p : Pos) (s : State) : (setPos p s).readData = s.readData := by
  unfold setPos
  split <;> rfl
@[simp] theorem setPos_next (p : Pos) (s : State) : (setPos p s).next = s.next := by
  unfold setPos
  split <;> rfl
@[simp] theorem setPos_draws (p : Pos) (s : State) : (setPos p s).draws = s.draws := by
  unfold setPos
  split <;> rfl

@[simp] theorem raiseTransport_arg (r : Request) (s : State) : (raiseTransport r s).arg = s.arg := rfl
@[simp] theorem raiseTransport_res (r : Request) (s : State) : (raiseTransport r s).res = s.res := rfl
@[simp] theorem raiseTransport_done (r : Request) (s : State) : (raiseTransport r s).done = true := rfl
@[simp] theorem raiseTransport_err (r : Request) (s : State) : (raiseTransport r s).err = .transport := rfl
@[simp] theorem raiseTransport_overrun (r : Request) (s : State) : (raiseTransport r s).overrun = s.overrun := rfl
@[simp] theorem raiseTransport_bankValid (r : Request) (s : State) : (raiseTransport r s).bankValid = (s.bankValid && !r.writesBank) := rfl
@[simp] theorem raiseTransport_cfgValid (r : Request) (s : State) : (raiseTransport r s).cfgValid = false := rfl
@[simp] theorem raiseTransport_guardEn (r : Request) (s : State) : (raiseTransport r s).guardEn = s.guardEn := rfl
@[simp] theorem raiseTransport_stopValid (r : Request) (s : State) : (raiseTransport r s).stopValid = s.stopValid := rfl
@[simp] theorem raiseTransport_ioTimeout (r : Request) (s : State) : (raiseTransport r s).ioTimeout = s.ioTimeout := rfl
@[simp] theorem raiseTransport_deadline (r : Request) (s : State) : (raiseTransport r s).deadline = s.deadline := rfl
@[simp] theorem raiseTransport_devAddr (r : Request) (s : State) : (raiseTransport r s).devAddr = s.devAddr := rfl
@[simp] theorem raiseTransport_bank (r : Request) (s : State) : (raiseTransport r s).bank = s.bank := rfl
@[simp] theorem raiseTransport_stopVar (r : Request) (s : State) : (raiseTransport r s).stopVar = s.stopVar := rfl
@[simp] theorem raiseTransport_budgetUs (r : Request) (s : State) : (raiseTransport r s).budgetUs = s.budgetUs := rfl
@[simp] theorem raiseTransport_seqPc (r : Request) (s : State) : (raiseTransport r s).seqPc = s.seqPc := rfl
@[simp] theorem raiseTransport_tuning (r : Request) (s : State) : (raiseTransport r s).tuning = s.tuning := rfl
@[simp] theorem raiseTransport_didTimeout (r : Request) (s : State) : (raiseTransport r s).didTimeout = s.didTimeout := rfl
@[simp] theorem raiseTransport_engine (r : Request) (s : State) : (raiseTransport r s).engine = .idle := rfl
@[simp] theorem raiseTransport_bus (r : Request) (s : State) : (raiseTransport r s).bus = s.bus := rfl
@[simp] theorem raiseTransport_tick (r : Request) (s : State) : (raiseTransport r s).tick = s.tick := rfl
@[simp] theorem raiseTransport_sensorBank (r : Request) (s : State) : (raiseTransport r s).sensorBank = s.sensorBank := rfl
@[simp] theorem raiseTransport_sensorAddr (r : Request) (s : State) : (raiseTransport r s).sensorAddr = s.sensorAddr := rfl
@[simp] theorem raiseTransport_sensor (r : Request) (s : State) : (raiseTransport r s).sensor = s.sensor := rfl
@[simp] theorem raiseTransport_readData (r : Request) (s : State) : (raiseTransport r s).readData = s.readData := rfl
@[simp] theorem raiseTransport_next (r : Request) (s : State) : (raiseTransport r s).next = s.next := rfl
@[simp] theorem raiseTransport_draws (r : Request) (s : State) : (raiseTransport r s).draws = s.draws := rfl

@[simp] theorem issue_arg (r : Request) (s : State) : (issue r s).arg = s.arg := by
  simp [issue]
@[simp] theorem issue_res (r : Request) (s : State) : (issue r s).res = s.res := by
  simp [issue]
@[simp] theorem issue_done (r : Request) (s : State) : (issue r s).done = s.done := by
  simp [issue]
@[simp] theorem issue_err (r : Request) (s : State) : (issue r s).err = s.err := by
  simp [issue]
@[simp] theorem issue_overrun (r : Request) (s : State) : (issue r s).overrun = s.overrun := by
  simp [issue]
@[simp] theorem issue_bankValid (r : Request) (s : State) : (issue r s).bankValid = s.bankValid := by
  simp [issue]
@[simp] theorem issue_cfgValid (r : Request) (s : State) : (issue r s).cfgValid = s.cfgValid := by
  simp [issue]
@[simp] theorem issue_guardEn (r : Request) (s : State) : (issue r s).guardEn = s.guardEn := by
  simp [issue]
@[simp] theorem issue_stopValid (r : Request) (s : State) : (issue r s).stopValid = s.stopValid := by
  simp [issue]
@[simp] theorem issue_ioTimeout (r : Request) (s : State) : (issue r s).ioTimeout = s.ioTimeout := by
  simp [issue]
@[simp] theorem issue_deadline (r : Request) (s : State) : (issue r s).deadline = s.deadline := by
  simp [issue]
@[simp] theorem issue_devAddr (r : Request) (s : State) : (issue r s).devAddr = s.devAddr := by
  simp [issue]
@[simp] theorem issue_bank (r : Request) (s : State) : (issue r s).bank = s.bank := by
  simp [issue]
@[simp] theorem issue_stopVar (r : Request) (s : State) : (issue r s).stopVar = s.stopVar := by
  simp [issue]
@[simp] theorem issue_budgetUs (r : Request) (s : State) : (issue r s).budgetUs = s.budgetUs := by
  simp [issue]
@[simp] theorem issue_seqPc (r : Request) (s : State) : (issue r s).seqPc = s.seqPc := by
  simp [issue]
@[simp] theorem issue_tuning (r : Request) (s : State) : (issue r s).tuning = s.tuning := by
  simp [issue]
@[simp] theorem issue_didTimeout (r : Request) (s : State) : (issue r s).didTimeout = s.didTimeout := by
  simp [issue]
@[simp] theorem issue_bus (r : Request) (s : State) : (issue r s).bus = .pending r .none := by
  simp [issue]
@[simp] theorem issue_tick (r : Request) (s : State) : (issue r s).tick = s.tick := by
  simp [issue]
@[simp] theorem issue_sensorBank (r : Request) (s : State) : (issue r s).sensorBank = s.sensorBank := by
  simp [issue]
@[simp] theorem issue_sensorAddr (r : Request) (s : State) : (issue r s).sensorAddr = s.sensorAddr := by
  simp [issue]
@[simp] theorem issue_sensor (r : Request) (s : State) : (issue r s).sensor = s.sensor := by
  simp [issue]
@[simp] theorem issue_readData (r : Request) (s : State) : (issue r s).readData = s.readData := by
  simp [issue]
@[simp] theorem issue_next (r : Request) (s : State) : (issue r s).next = s.next := by
  simp [issue]
@[simp] theorem issue_draws (r : Request) (s : State) : (issue r s).draws = s.draws := by
  simp [issue]

/-- The engine's position moves; the command stays. -/
theorem setPos_of_running {s : State} {cmd : Word} {p : Pos} (q : Pos) (h : s.engine = .running cmd p) :
    setPos q s = { s with engine := .running cmd q } := by
  simp [setPos, h]

@[simp] theorem Line.apply_arg (l : Line) (s : State) : (l.apply s).arg = s.arg := by
  cases l <;> rfl
@[simp] theorem Line.apply_done (l : Line) (s : State) : (l.apply s).done = s.done := by
  cases l <;> rfl
@[simp] theorem Line.apply_err (l : Line) (s : State) : (l.apply s).err = s.err := by
  cases l <;> rfl
@[simp] theorem Line.apply_overrun (l : Line) (s : State) : (l.apply s).overrun = s.overrun := by
  cases l <;> rfl
@[simp] theorem Line.apply_ioTimeout (l : Line) (s : State) : (l.apply s).ioTimeout = s.ioTimeout := by
  cases l <;> rfl
@[simp] theorem Line.apply_tuning (l : Line) (s : State) : (l.apply s).tuning = s.tuning := by
  cases l <;> rfl
@[simp] theorem Line.apply_engine (l : Line) (s : State) : (l.apply s).engine = s.engine := by
  cases l <;> rfl
@[simp] theorem Line.apply_bus (l : Line) (s : State) : (l.apply s).bus = s.bus := by
  cases l <;> rfl
@[simp] theorem Line.apply_tick (l : Line) (s : State) : (l.apply s).tick = s.tick := by
  cases l <;> rfl
@[simp] theorem Line.apply_sensorBank (l : Line) (s : State) : (l.apply s).sensorBank = s.sensorBank := by
  cases l <;> rfl
@[simp] theorem Line.apply_sensorAddr (l : Line) (s : State) : (l.apply s).sensorAddr = s.sensorAddr := by
  cases l <;> rfl
@[simp] theorem Line.apply_sensor (l : Line) (s : State) : (l.apply s).sensor = s.sensor := by
  cases l <;> rfl
@[simp] theorem Line.apply_readData (l : Line) (s : State) : (l.apply s).readData = s.readData := by
  cases l <;> rfl
@[simp] theorem Line.apply_next (l : Line) (s : State) : (l.apply s).next = s.next := by
  cases l <;> rfl
@[simp] theorem Line.apply_draws (l : Line) (s : State) : (l.apply s).draws = s.draws := by
  cases l <;> rfl

@[simp] theorem Line.apply_of_res (i : Fin 6) (v : Word) (s : State) :
    (Line.res i v).apply s = { s with res := s.res.set i v } := rfl
@[simp] theorem Line.apply_of_allRes (f : RegFile) (s : State) :
    (Line.allRes f).apply s = { s with res := f } := rfl
@[simp] theorem Line.apply_of_budget (v : Word) (s : State) :
    (Line.budget v).apply s = { s with budgetUs := v } := rfl
@[simp] theorem Line.apply_of_stopVar (b : Byte) (s : State) :
    (Line.stopVar b).apply s = { s with stopVar := b } := rfl
@[simp] theorem Line.apply_of_stopValid(s : State) :
    (Line.stopValid).apply s = { s with stopValid := true } := rfl
@[simp] theorem Line.apply_of_bank (b : Byte) (s : State) :
    (Line.bank b).apply s = { s with bank := b } := rfl
@[simp] theorem Line.apply_of_bankValid(s : State) :
    (Line.bankValid).apply s = { s with bankValid := true } := rfl
@[simp] theorem Line.apply_of_cfgValid (v : Bool) (s : State) :
    (Line.cfgValid v).apply s = { s with cfgValid := v } := rfl
@[simp] theorem Line.apply_of_seqPc (v : BitVec 16) (s : State) :
    (Line.seqPc v).apply s = { s with seqPc := v } := rfl
@[simp] theorem Line.apply_of_devAddr (a : DevAddr) (s : State) :
    (Line.devAddr a).apply s = { s with devAddr := a } := rfl
@[simp] theorem Line.apply_of_deadline (t : Tick) (s : State) :
    (Line.deadline t).apply s = { s with deadline := t } := rfl
@[simp] theorem Line.apply_of_guardEn (v : Bool) (s : State) :
    (Line.guardEn v).apply s = { s with guardEn := v } := rfl
@[simp] theorem Line.apply_of_didTimeout(s : State) :
    (Line.didTimeout).apply s = { s with didTimeout := true } := rfl

@[simp] theorem RegFile.get_set_same (f : RegFile) (i : Fin 6) (v : Word) : (f.set i v).get i = v := by
  fin_cases i <;> rfl

theorem RegFile.get_set_other (f : RegFile) (i j : Fin 6) (v : Word) (h : j ≠ i) : (f.set i v).get j = f.get j := by
  fin_cases i <;> fin_cases j <;> first | rfl | exact absurd rfl h

end Sys2Proof.Machine
end

