-- ==== Sys2Proof/Laws/Ops.lean ====
section
/-! SUPPORT. What each shared operation of the engine can do, said once. -/

namespace Sys2Proof.Machine

open Sys2Proof

theorem turn_idle {s : State} (start loop : State) (onOk : Request → Word → State → State) (h : s.engine = .idle) :
    turn s start loop onOk = .next s := by
  simp [turn, h]

theorem turn_start {s : State} {cmd : Word} (start loop : State) (onOk : Request → Word → State → State)
    (h : s.engine = .running cmd .start) : turn s start loop onOk = .next start := by
  simp [turn, h]

theorem turn_await {s : State} {cmd : Word} (start loop : State) (onOk : Request → Word → State → State)
    (h : s.engine = .running cmd .await) : turn s start loop onOk = .next (awaitReply onOk s) := by
  simp [turn, h]

theorem turn_loop {s : State} {cmd : Word} (start loop : State) (onOk : Request → Word → State → State)
    (h : s.engine = .running cmd (.lines [] .loop)) : turn s start loop onOk = .next loop := by
  simp [turn, h]

theorem turn_finish {s : State} {cmd : Word} {ws : List Line} {e : ErrCode} (start loop : State)
    (onOk : Request → Word → State → State) (h : s.engine = .running cmd (.lines ws (.finish e))) :
    turn s start loop onOk = .next (emit ws (.finish e) s) := by
  cases ws <;> simp [turn, h]

theorem turn_lines {s : State} {cmd : Word} {l : Line} {ws : List Line} {k : After} (start loop : State)
    (onOk : Request → Word → State → State) (h : s.engine = .running cmd (.lines (l :: ws) k)) :
    turn s start loop onOk = .next (emit (l :: ws) k s) := by
  cases k <;> simp [turn, h]

/-- Everything one turn can do: it always answers a next state, and which one the engine's position says. -/
theorem turn_cases (s start loop : State) (onOk : Request → Word → State → State) :
    ∃ t, turn s start loop onOk = .next t ∧
      ((s.engine = .idle ∧ t = s) ∨
       (∃ cmd, s.engine = .running cmd .start ∧ t = start) ∨
       (∃ cmd, s.engine = .running cmd .await ∧ t = awaitReply onOk s) ∨
       (∃ cmd, s.engine = .running cmd (.lines [] .loop) ∧ t = loop) ∨
       (∃ cmd ws k, s.engine = .running cmd (.lines ws k) ∧ (ws ≠ [] ∨ ∃ e, k = .finish e) ∧ t = emit ws k s)) := by
  rcases he : s.engine with _ | ⟨cmd, _ | _ | ⟨ws, k⟩⟩
  · exact ⟨s, turn_idle _ _ _ he, .inl ⟨rfl, rfl⟩⟩
  · exact ⟨_, turn_start _ _ _ he, .inr (.inl ⟨cmd, rfl, rfl⟩)⟩
  · exact ⟨_, turn_await _ _ _ he, .inr (.inr (.inl ⟨cmd, rfl, rfl⟩))⟩
  · cases k with
    | finish e => exact ⟨_, turn_finish _ _ _ he, .inr (.inr (.inr (.inr ⟨cmd, ws, _, rfl, .inr ⟨e, rfl⟩, rfl⟩)))⟩
    | loop =>
      cases ws with
      | nil => exact ⟨_, turn_loop _ _ _ he, .inr (.inr (.inr (.inl ⟨cmd, rfl, rfl⟩)))⟩
      | cons l ws => exact ⟨_, turn_lines _ _ _ he, .inr (.inr (.inr (.inr ⟨cmd, _, _, rfl, .inl (by simp), rfl⟩)))⟩

@[simp] theorem emit_nil_finish (e : ErrCode) (s : State) : emit [] (.finish e) s = complete e s := rfl

@[simp] theorem emit_nil_loop (s : State) : emit [] .loop s = setPos (.lines [] .loop) s := rfl

@[simp] theorem emit_cons (l : Line) (ws : List Line) (k : After) (s : State) :
    emit (l :: ws) k s = setPos (.lines ws k) (l.apply s) := by
  cases k <;> rfl

/-- Everything a waiting turn can do: wait, go on with the value, or end as TRANSPORT. -/
theorem awaitReply_cases (onOk : Request → Word → State → State) (s : State) :
    ((s.bus = .idle ∨ ∃ r p, s.bus = .pending r p) ∧ awaitReply onOk s = s) ∨
    (∃ r v, s.bus = .answered r (.ok v) ∧ awaitReply onOk s = onOk r v { s with bus := .idle }) ∨
    (∃ r, s.bus = .answered r .fail ∧ awaitReply onOk s = raiseTransport r { s with bus := .idle }) := by
  rcases hb : s.bus with _ | ⟨r, p⟩ | ⟨r, _ | _⟩
  · exact .inl ⟨.inl rfl, by simp [awaitReply, hb]⟩
  · exact .inl ⟨.inr ⟨r, p, rfl⟩, by simp [awaitReply, hb]⟩
  · exact .inr (.inl ⟨r, _, rfl, by simp [awaitReply, hb]⟩)
  · exact .inr (.inr ⟨r, rfl, by simp [awaitReply, hb]⟩)

/-- What starting a computing command does: its lines, or its error. -/
theorem compute_start {s : State} {cmd : Word} (result : Except ErrCode (List Line)) (h : s.engine = .running cmd .start) :
    compute result s = .next (match result with
      | .ok ws => emit ws (.finish .none) s
      | .error e => complete e s) := by
  unfold compute
  exact turn_start _ _ _ h

/-- What starting an accessing command does: it issues its request. -/
theorem access_start {s : State} {cmd : Word} (r : Request) (lines : Request → Word → List Line)
    (h : s.engine = .running cmd .start) :
    access r lines s = .next { s with bus := .pending r .none, engine := .running cmd .await } := by
  unfold access
  rw [turn_start _ _ _ h]
  simp [issue, setPos, h]

/-- An idle engine makes no turn. -/
theorem engineTurn_idle {s : State} (h : s.engine = .idle) : engineTurn s = .next s := by
  simp [engineTurn, h]

/-- A running engine's turn is its decoded command's. -/
theorem engineTurn_ok {s : State} {cmd : Word} {pos : Pos} {i : Instr} (h : s.engine = .running cmd pos)
    (hd : decode cmd = .ok i) : engineTurn s = exec i s := by
  simp [engineTurn, h, hd]

/-- A word that does not decode ends as ILLEGAL. -/
theorem engineTurn_illegal {s : State} {cmd : Word} {pos : Pos} {e : Illegal} (h : s.engine = .running cmd pos)
    (hd : decode cmd = .error e) : engineTurn s = .next (complete .illegal s) := by
  simp [engineTurn, h, hd]

/-- What block reset leaves of the sensor: itself, but for the bytes of a request in flight that it takes (R282, R283). -/
theorem resetBlock_sensor (took : BitVec 4) (t : Tick) (s : State) :
    ((∀ r p, s.bus ≠ .pending r p) ∧ (resetBlock took t s).sensor = s.sensor ∧ (resetBlock took t s).sensorBank = s.sensorBank ∧
      (resetBlock took t s).sensorAddr = s.sensorAddr) ∨
    ∃ r p, s.bus = .pending r p ∧ (resetBlock took t s).sensor = (sensorServes took r p s).sensor ∧
      (resetBlock took t s).sensorBank = (sensorServes took r p s).sensorBank ∧
      (resetBlock took t s).sensorAddr = (sensorServes took r p s).sensorAddr := by
  rcases hb : s.bus with _ | ⟨r, p⟩ | _
  · exact .inl (by simp [resetBlock, hb])
  · exact .inr ⟨r, p, rfl, by simp [resetBlock, hb]⟩
  · exact .inl (by simp [resetBlock, hb])

theorem resetBlock_wf {s : State} (took : BitVec 4) (t : Tick) (h : s.sensor.wf = true) :
    (resetBlock took t s).sensor.wf = true := by
  obtain ⟨-, e, -⟩ | ⟨r, p, -, e, -⟩ := resetBlock_sensor took t s <;> rw [e]
  · exact h
  · exact sensorServes_wf took r p h

/-- What a host access can do: refused for its shape, a fault outside the window, or one CSR read or write. -/
theorem hostAccess_cases (a : Access) (s : State) :
    ((a.bytes ≠ 4 ∨ a.offset % 4 ≠ 0) ∧ hostAccess a s = .refused .csrAccessShape) ∨
    (a.bytes = 4 ∧ a.offset % 4 = 0 ∧ 0x100 ≤ a.offset ∧ hostAccess a s = .fault .csrOutsideWindow) ∨
    (a.bytes = 4 ∧ a.offset % 4 = 0 ∧ a.offset < 0x100 ∧
      ((a.data = none ∧ hostAccess a s = .next { s with readData := (Csr.ofIndex (a.offset / 4)).read s }) ∨
       ∃ w, a.data = some w ∧ hostAccess a s = .next ((Csr.ofIndex (a.offset / 4)).write w s))) := by
  by_cases h1 : a.bytes ≠ 4 ∨ a.offset % 4 ≠ 0
  · exact .inl ⟨h1, by simp [hostAccess, h1]⟩
  · have h1' : a.bytes = 4 ∧ a.offset % 4 = 0 := by omega
    obtain ⟨hb, ho⟩ := h1'
    by_cases h2 : 0x100 ≤ a.offset
    · exact .inr (.inl ⟨hb, ho, h2, by simp [hostAccess, hb, ho, h2]⟩)
    · refine .inr (.inr ⟨hb, ho, by omega, ?_⟩)
      rcases hd : a.data with _ | w
      · exact .inl ⟨rfl, by simp [hostAccess, hb, ho, h2, hd]⟩
      · exact .inr ⟨w, rfl, by simp [hostAccess, hb, ho, h2, hd]⟩

/-- What a host write can do: nothing, one host-written register, OVERRUN, or the start of a command. -/
theorem csrWrite_cases (c : Csr) (w : Word) (s : State) :
    c.write w s = s ∨
    (∃ v, c.write w s = { s with overrun := v }) ∨
    (s.engine = .idle ∧
      (c.write w s = startCommand w s ∨ (∃ f, c.write w s = { s with arg := f }) ∨
       c.write w s = { s with ioTimeout := w } ∨ c.write w s = { s with devAddr := w.setWidth 7 } ∨
       c.write w s = { s with stopVar := w.setWidth 8, stopValid := true })) := by
  rcases he : s.engine with _ | ⟨cmd, pos⟩
  · cases c <;> simp [Csr.write, unlessBusy, State.busy, he]
  · cases c <;> simp [Csr.write, unlessBusy, State.busy, he]

end Sys2Proof.Machine
end

