-- ==== Sys2Proof/Laws/PerInstr.lean ====
section
/-! SUPPORT. A family of lemmas with one member per command: its encoding has RSV 0 and a defined opcode (spec/30_encoding.md R90, R94). -/

namespace Sys2Proof.Laws

open Sys2Proof

/-- The word of a command passes the first two checks of 30_encoding.md R92. -/
def EncodedOpcode.Statement (i : Instr) : Prop :=
  rsvField (encode i) = 0 ∧ opcodes.contains (opcField (encode i)).toNat = true

theorem EncodedOpcode.decTimeout : EncodedOpcode.Statement .decTimeout := by
  simp [EncodedOpcode.Statement, encode, opcodes]

theorem EncodedOpcode.encTimeout : EncodedOpcode.Statement .encTimeout := by
  simp [EncodedOpcode.Statement, encode, opcodes]

theorem EncodedOpcode.macroPeriod : EncodedOpcode.Statement .macroPeriod := by
  simp [EncodedOpcode.Statement, encode, opcodes]

theorem EncodedOpcode.mclkToUs : EncodedOpcode.Statement .mclkToUs := by
  simp [EncodedOpcode.Statement, encode, opcodes]

theorem EncodedOpcode.usToMclk : EncodedOpcode.Statement .usToMclk := by
  simp [EncodedOpcode.Statement, encode, opcodes]

theorem EncodedOpcode.seqDecode : EncodedOpcode.Statement .seqDecode := by
  simp [EncodedOpcode.Statement, encode, opcodes]

theorem EncodedOpcode.vcselDec : EncodedOpcode.Statement .vcselDec := by
  simp [EncodedOpcode.Statement, encode, opcodes]

theorem EncodedOpcode.vcselEncPre : EncodedOpcode.Statement .vcselEncPre := by
  simp [EncodedOpcode.Statement, encode, opcodes]

theorem EncodedOpcode.vcselEncFinal : EncodedOpcode.Statement .vcselEncFinal := by
  simp [EncodedOpcode.Statement, encode, opcodes]

theorem EncodedOpcode.stepTimeouts : EncodedOpcode.Statement .stepTimeouts := by
  simp [EncodedOpcode.Statement, encode, opcodes]

theorem EncodedOpcode.budgetGet : EncodedOpcode.Statement .budgetGet := by
  simp [EncodedOpcode.Statement, encode, opcodes]

theorem EncodedOpcode.budgetSet : EncodedOpcode.Statement .budgetSet := by
  simp [EncodedOpcode.Statement, encode, opcodes]

theorem EncodedOpcode.srlEnc : EncodedOpcode.Statement .srlEnc := by
  simp [EncodedOpcode.Statement, encode, opcodes]

theorem EncodedOpcode.srlDec : EncodedOpcode.Statement .srlDec := by
  simp [EncodedOpcode.Statement, encode, opcodes]

theorem EncodedOpcode.guardArm : EncodedOpcode.Statement .guardArm := by
  simp [EncodedOpcode.Statement, encode, opcodes]

theorem EncodedOpcode.guardCheck : EncodedOpcode.Statement .guardCheck := by
  simp [EncodedOpcode.Statement, encode, opcodes]

theorem EncodedOpcode.timeoutOccurred : EncodedOpcode.Statement .timeoutOccurred := by
  simp [EncodedOpcode.Statement, encode, opcodes]

theorem EncodedOpcode.rd8 (reg : Byte) : EncodedOpcode.Statement (.rd8 reg) := by
  simp [EncodedOpcode.Statement, encode, opcodes]

theorem EncodedOpcode.rd8Cap (reg : Byte) : EncodedOpcode.Statement (.rd8Cap reg) := by
  simp [EncodedOpcode.Statement, encode, opcodes]

theorem EncodedOpcode.rd16 (reg : Byte) : EncodedOpcode.Statement (.rd16 reg) := by
  simp [EncodedOpcode.Statement, encode, opcodes]

theorem EncodedOpcode.rd32 (reg : Byte) : EncodedOpcode.Statement (.rd32 reg) := by
  simp [EncodedOpcode.Statement, encode, opcodes]

theorem EncodedOpcode.wr8 (reg imm : Byte) : EncodedOpcode.Statement (.wr8 reg imm) := by
  simp [EncodedOpcode.Statement, encode, opcodes]

theorem EncodedOpcode.wr8Sv (reg : Byte) : EncodedOpcode.Statement (.wr8Sv reg) := by
  simp [EncodedOpcode.Statement, encode, opcodes]

theorem EncodedOpcode.wr16 (reg : Byte) : EncodedOpcode.Statement (.wr16 reg) := by
  simp [EncodedOpcode.Statement, encode, opcodes]

theorem EncodedOpcode.wr32 (reg : Byte) : EncodedOpcode.Statement (.wr32 reg) := by
  simp [EncodedOpcode.Statement, encode, opcodes]

theorem EncodedOpcode.pollNz (reg mask : Byte) : EncodedOpcode.Statement (.pollNz reg mask) := by
  simp [EncodedOpcode.Statement, encode, opcodes]

theorem EncodedOpcode.pollZ (reg mask : Byte) : EncodedOpcode.Statement (.pollZ reg mask) := by
  simp [EncodedOpcode.Statement, encode, opcodes]

theorem EncodedOpcode.seqRun : EncodedOpcode.Statement .seqRun := by
  simp [EncodedOpcode.Statement, encode, opcodes]

theorem EncodedOpcode.setAddr (reg addr : Byte) : EncodedOpcode.Statement (.setAddr reg addr) := by
  simp [EncodedOpcode.Statement, encode, opcodes]

end Sys2Proof.Laws
end

