-- ==== Sys2Proof/Tests/Slice0.lean ====
section
/-! SUPPORT. Tests of the model, their expected values from spec/95_test_vectors.md and spec/30_encoding.md R101, and a witness for
every statement that has hypotheses. -/

namespace Sys2Proof.Tests

open Sys2Proof Sys2Proof.Machine

/-! ## Well-formedness: one ill-formed term for each check of R97 -/

theorem test_wf_refuses_rd16_past_ff : Instr.wf (.rd16 0xFF) = false := by decide
theorem test_wf_refuses_rd32_past_ff : Instr.wf (.rd32 0xFD) = false := by decide
theorem test_wf_refuses_wr16_at_ff : Instr.wf (.wr16 0xFE) = false := by decide
theorem test_wf_refuses_wr32_at_ff : Instr.wf (.wr32 0xFC) = false := by decide
theorem test_wf_refuses_set_addr_ff : Instr.wf (.setAddr 0xFF 0x30) = false := by decide

/-! ## Decoding: one word for each command, written out from R90, R91, R94 and R95 -/

theorem test_decode_timing :
    decode 0x00000001 = .ok .decTimeout ∧ decode 0x00000002 = .ok .encTimeout ∧ decode 0x00000003 = .ok .macroPeriod ∧
    decode 0x00000004 = .ok .mclkToUs ∧ decode 0x00000005 = .ok .usToMclk := by decide
theorem test_decode_config :
    decode 0x00000008 = .ok .seqDecode ∧ decode 0x00000009 = .ok .vcselDec ∧ decode 0x0000000A = .ok .vcselEncPre ∧
    decode 0x0100000A = .ok .vcselEncFinal ∧ decode 0x0000000B = .ok .stepTimeouts ∧ decode 0x0000000C = .ok .budgetGet ∧
    decode 0x0000000D = .ok .budgetSet ∧ decode 0x0000000E = .ok .srlEnc ∧ decode 0x0000000F = .ok .srlDec := by decide
theorem test_decode_guard :
    decode 0x00000010 = .ok .guardArm ∧ decode 0x00000011 = .ok .guardCheck ∧ decode 0x00000012 = .ok .timeoutOccurred ∧
    decode 0x00071328 = .ok (.pollNz 0x13 0x07) ∧ decode 0x01010028 = .ok (.pollZ 0x00 0x01) := by decide
theorem test_decode_reads :
    decode 0x00009120 = .ok (.rd8 0x91) ∧ decode 0x01009120 = .ok (.rd8Cap 0x91) ∧ decode 0x0000FE21 = .ok (.rd16 0xFE) ∧
    decode 0x0000FC22 = .ok (.rd32 0xFC) := by decide
theorem test_decode_writes :
    decode 0x0001FF24 = .ok (.wr8 0xFF 0x01) ∧ decode 0x01009124 = .ok (.wr8Sv 0x91) ∧ decode 0x0000FD25 = .ok (.wr16 0xFD) ∧
    decode 0x0000FB26 = .ok (.wr32 0xFB) ∧ decode 0x00000029 = .ok .seqRun ∧ decode 0x00308A2A = .ok (.setAddr 0x8A 0x30) := by decide

/-- D-1 to D-4 and D-25. -/
theorem test_decode_reserved_opcode :
    decode 0x00000000 = .error .reservedOpcode ∧ decode 0x00000006 = .error .reservedOpcode ∧
    decode 0x0000002B = .error .reservedOpcode ∧ decode 0x000000FF = .error .reservedOpcode ∧
    decode 0x00000100 = .error .reservedOpcode := by decide
/-- D-5, D-6. -/
theorem test_decode_reserved_bits :
    decode 0x02000001 = .error .reservedBits ∧ decode 0x80000029 = .error .reservedBits := by decide
/-- D-7 to D-11, D-23. -/
theorem test_decode_unused_field :
    decode 0x01000001 = .error .unusedField ∧ decode 0x00000101 = .error .unusedField ∧ decode 0x00010010 = .error .unusedField ∧
    decode 0x00019120 = .error .unusedField ∧ decode 0x01019124 = .error .unusedField ∧ decode 0x0100000B = .error .unusedField := by
  decide
/-- D-14, D-16, D-18, D-20, D-22. -/
theorem test_decode_register_range :
    decode 0x0000FF21 = .error .registerRange ∧ decode 0x0000FD22 = .error .registerRange ∧
    decode 0x0000FE25 = .error .registerRange ∧ decode 0x0000FC26 = .error .registerRange ∧
    decode 0x0030FF2A = .error .registerRange := by decide
theorem test_table_word : decodeTableWord 32 0x00071328 = some (.pollNz 0x13 0x07) ∧ decodeTableWord 8 0x05 = some .usToMclk := by
  decide
/-- The first step after a placed word runs it: GUARD_CHECK of a fresh block writes RES0 and waits for its completion. -/
theorem test_placed_word_runs :
    step (State.reset.withFetchWord 32 0x11) = thenDraw (exec .guardCheck (State.reset.withFetchWord 32 0x11)) := rfl

/-! ## One command on a small state -/

/-- A block with an empty table, the given ARG registers and 7 in every RES register, running `cmd` at `pos`. -/
def benchAt (cmd : Word) (pos : Pos) (a0 a1 a2 a3 a4 : Nat) : State :=
  { State.reset with
    tuning := []
    arg := { r0 := word a0, r1 := word a1, r2 := word a2, r3 := word a3, r4 := word a4, r5 := 0 }
    res := { r0 := 7, r1 := 7, r2 := 7, r3 := 7, r4 := 7, r5 := 7 }
    engine := .running cmd pos }

/-- The same at the command's start. -/
def bench (cmd : Word) (a0 a1 a2 a3 a4 : Nat) : State := benchAt cmd .start a0 a1 a2 a3 a4

/-- The same while a request has been answered. -/
def benchAnswered (cmd : Word) (r : Request) (a : Reply) : State :=
  { benchAt cmd .await 0 0 0 0 0 with bus := .answered r a }

/-- What a command that ends within `n` turns leaves: its error code, RES0 to RES5 and BUDGET_US. -/
def ended (n : Nat) (i : Instr) (s : State) : Option (ErrCode × List Nat × Nat) :=
  match execTimes n i s with
  | .next t =>
    if t.engine = .idle then
      some (t.err, [t.res.r0.toNat, t.res.r1.toNat, t.res.r2.toNat, t.res.r3.toNat, t.res.r4.toNat, t.res.r5.toNat],
        t.budgetUs.toNat)
    else none
  | .fault _ => none
  | .refused _ => none

/-- T-DEC8, T-DEC13. -/
theorem test_dec_timeout :
    ended 2 .decTimeout (bench 0x01 0x02B3 0 0 0 0) = some (.none, [717, 7, 7, 7, 7, 7], 0) ∧
    ended 1 .decTimeout (bench 0x01 0x0980 0 0 0 0) = some (.range, [7, 7, 7, 7, 7, 7], 0) := by decide
/-- T-ENC12, T-ENC14. -/
theorem test_enc_timeout :
    ended 2 .encTimeout (bench 0x02 1000 0 0 0 0) = some (.none, [0x02F9, 7, 7, 7, 7, 7], 0) ∧
    ended 2 .encTimeout (bench 0x02 65535 0 0 0 0) = some (.none, [0x08FF, 7, 7, 7, 7, 7], 0) := by decide
/-- T-MP6, T-MP11. -/
theorem test_macro_period :
    ended 2 .macroPeriod (bench 0x03 14 0 0 0 0) = some (.none, [53384, 7, 7, 7, 7, 7], 0) ∧
    ended 1 .macroPeriod (bench 0x03 256 0 0 0 0) = some (.range, [7, 7, 7, 7, 7, 7], 0) := by decide
/-- T-M2U7, T-M2U8. -/
theorem test_mclk_to_us :
    ended 2 .mclkToUs (bench 0x04 65535 18 0 0 0) = some (.none, [4498060, 7, 7, 7, 7, 7], 0) ∧
    ended 1 .mclkToUs (bench 0x04 0xFFFFFFFF 255 0 0 0) = some (.range, [7, 7, 7, 7, 7, 7], 0) := by decide
/-- T-M2U1, the other bias of `P_M2U_BIAS`. -/
theorem test_mclk_to_us_half_macro : m2u .halfMacro 100 14 = 5365 ∧ m2u .halfDivisor 100 14 = 5338 := by decide
/-- T-U2M6, T-U2M9. -/
theorem test_us_to_mclk :
    ended 2 .usToMclk (bench 0x05 20736 10 0 0 0) = some (.none, [544, 7, 7, 7, 7, 7], 0) ∧
    ended 1 .usToMclk (bench 0x05 5 0 0 0 0) = some (.div0, [7, 7, 7, 7, 7, 7], 0) := by decide
/-- C-SQ1 and its value under the reference mapping. -/
theorem test_seq_decode :
    ended 2 .seqDecode (bench 0x08 0xE8 0 0 0 0) = some (.none, [0x1A, 7, 7, 7, 7, 7], 0) ∧
    (seqEnables Config.seqBitsReference 0xE8).code = 0x1C := by decide
/-- C-VD6, C-VD7. -/
theorem test_vcsel_dec :
    ended 2 .vcselDec (bench 0x09 126 0 0 0 0) = some (.none, [254, 7, 7, 7, 7, 7], 0) ∧
    ended 1 .vcselDec (bench 0x09 127 0 0 0 0) = some (.range, [7, 7, 7, 7, 7, 7], 0) := by decide
/-- C-VE2, C-VE5. -/
theorem test_vcsel_enc_pre :
    ended 2 .vcselEncPre (bench 0x0A 14 0 0 0 0) = some (.none, [6, 7, 7, 7, 7, 7], 0) ∧
    ended 1 .vcselEncPre (bench 0x0A 13 0 0 0 0) = some (.validation, [7, 7, 7, 7, 7, 7], 0) := by decide
/-- C-VE9, C-VE13. -/
theorem test_vcsel_enc_final :
    ended 2 .vcselEncFinal (bench 0x0100000A 8 0 0 0 0) = some (.none, [3, 7, 7, 7, 7, 7], 0) ∧
    ended 1 .vcselEncFinal (bench 0x0100000A 16 0 0 0 0) = some (.validation, [7, 7, 7, 7, 7, 7], 0) := by decide
/-- C-ST1, C-ST6. -/
theorem test_step_timeouts :
    ended 2 .stepTimeouts (bench 0x0B 0x0C0406E8 0x02B30145 0 0 0) = some (.none, [0x000D0A0E, 694, 139, 7420, 578, 22040], 0) ∧
    ended 1 .stepTimeouts (bench 0x0B 0x0C0406E8 0x01000145 0 0 0) = some (.range, [7, 7, 7, 7, 7, 7], 0) := by decide
/-- C-BG2, C-BG6. -/
theorem test_budget_get :
    ended 3 .budgetGet (bench 0x0C 0xFF 694 7420 22040 0) = some (.none, [37592, 7, 7, 7, 7, 7], 37592) ∧
    ended 1 .budgetGet (bench 0x0C 0x80 0 0 0xFFFFFFFF 0) = some (.range, [7, 7, 7, 7, 7, 7], 0) := by decide
/-- C-BS3, C-BS5. -/
theorem test_budget_set :
    ended 6 .budgetSet (bench 0x0D 0x0AE8 694 7420 139 33000) = some (.none, [0x02AA, 683, 20736, 1, 7, 7], 33000) ∧
    ended 2 .budgetSet (bench 0x0D 0x0A40 694 7420 139 20000) = some (.none, [7, 7, 7, 0, 7, 7], 0) := by decide
/-- C-SE10, C-SE14. -/
theorem test_srl_enc :
    ended 2 .srlEnc (bench 0x0E 0x43FFFEB8 0 0 0 0) = some (.none, [65534, 7, 7, 7, 7, 7], 0) ∧
    ended 1 .srlEnc (bench 0x0E 0x43FFFF00 0 0 0 0) = some (.validation, [7, 7, 7, 7, 7, 7], 0) := by decide
/-- C-SD5, C-SD9. -/
theorem test_srl_dec :
    ended 2 .srlDec (bench 0x0F 12928 0 0 0 0) = some (.none, [0x42CA0000, 7, 7, 7, 7, 7], 0) ∧
    ended 1 .srlDec (bench 0x0F 0x10000 0 0 0 0) = some (.range, [7, 7, 7, 7, 7, 7], 0) := by decide

/-! ## The guard, the polls and the transport -/

/-- DEADLINE, GUARD_EN and DID_TIMEOUT after `n` turns. -/
def guardAfter (n : Nat) (i : Instr) (s : State) : Option (Nat × Bool × Bool) :=
  match execTimes n i s with
  | .next t => some (t.deadline.toNat, t.guardEn, t.didTimeout)
  | .fault _ => none
  | .refused _ => none

/-- G-2, G-9. -/
theorem test_guard_arm :
    guardAfter 2 .guardArm { bench 0x10 0 0 0 0 0 with ioTimeout := 500, tick := 1000 } = some (1500, true, false) ∧
    guardAfter 2 .guardArm { bench 0x10 0 0 0 0 0 with ioTimeout := 0xFFFFFFFF, tick := 18446744073709551614 }
      = some (18446744073709551615, true, false) := by decide
/-- G-3, G-4. -/
theorem test_guard_check :
    ended 2 .guardCheck { bench 0x11 0 0 0 0 0 with deadline := 1500, guardEn := true, tick := 1500 }
      = some (.none, [0, 7, 7, 7, 7, 7], 0) ∧
    ended 3 .guardCheck { bench 0x11 0 0 0 0 0 with deadline := 1500, guardEn := true, tick := 1501 }
      = some (.none, [1, 7, 7, 7, 7, 7], 0) := by decide
/-- G-5, G-6. -/
theorem test_timeout_occurred :
    ended 2 .timeoutOccurred { bench 0x12 0 0 0 0 0 with didTimeout := true } = some (.none, [1, 7, 7, 7, 7, 7], 0) ∧
    guardAfter 1 .timeoutOccurred { bench 0x12 0 0 0 0 0 with didTimeout := true } = some (0, false, false) ∧
    ended 2 .timeoutOccurred (bench 0x12 0 0 0 0 0) = some (.none, [0, 7, 7, 7, 7, 7], 0) := by decide

/-- The read request of register 0x13 at the reset address. -/
def read13 : Request := .read 0x29 0x13 .one

/-- G-12 and G-13: the predicate is tested before the deadline. -/
theorem test_poll_nz :
    ended 2 (.pollNz 0x13 0x07) { benchAnswered 0x00071328 read13 (.ok 0x04) with guardEn := true, deadline := 1001, tick := 5000 }
      = some (.none, [4, 7, 7, 7, 7, 7], 0) ∧
    ended 3 (.pollNz 0x13 0x07) { benchAnswered 0x00071328 read13 (.ok 0) with guardEn := true, deadline := 1001, tick := 5000 }
      = some (.timeout, [0xFFFF, 7, 7, 7, 7, 7], 0) := by decide
/-- G-15. -/
theorem test_poll_z :
    ended 2 (.pollZ 0x00 0x00) (benchAnswered 0x01000028 read13 (.ok 0x5A)) = some (.none, [0x5A, 7, 7, 7, 7, 7], 0) := by decide
/-- S-1. -/
theorem test_rd8 : ended 2 (.rd8 0x13) (benchAnswered 0x00001320 read13 (.ok 0x44)) = some (.none, [0x44, 7, 7, 7, 7, 7], 0) := by
  decide
/-- R152, as S-2. -/
theorem test_rd8_cap :
    (match execTimes 4 (.rd8Cap 0x13) (benchAnswered 0x01001320 read13 (.ok 0x3C)) with
      | .next t => some (t.res.r0.toNat, t.stopVar.toNat, t.stopValid, t.err)
      | .fault _ => none
      | .refused _ => none) = some (0x3C, 0x3C, true, .none) := by decide

/-- A sensor with the bytes 0x12, 0x34, 0x56, 0x78 in registers 0x1E to 0x21 of bank 1, which is selected, and `r` pending. -/
def sensorBench (r : Request) : State :=
  { State.reset with
    tuning := [], sensorBank := 1, bus := .pending r .none
    sensor := [(256 + 0x1E, 0x12), (256 + 0x1F, 0x34), (256 + 0x20, 0x56), (256 + 0x21, 0x78)] }

/-- R63: reads are big-endian from the first register. -/
theorem test_rd16 : (transportAnswers (.ok 0) (sensorBench (.read 0x29 0x1E .two))).bus
    = .answered (.read 0x29 0x1E .two) (.ok 0x1234) := by decide
theorem test_rd32 : (transportAnswers (.ok 0) (sensorBench (.read 0x29 0x1E .four))).bus
    = .answered (.read 0x29 0x1E .four) (.ok 0x12345678) := by decide
/-- R65: a write to 0xFF selects the bank. -/
theorem test_wr8_bank : (transportAnswers (.ok 0) (sensorBench (.write 0x29 0xFF .one 0x05))).sensorBank = 5 := by decide
/-- S-7. -/
theorem test_wr8_shadow :
    (match execTimes 3 (.wr8 0xFF 0x01) (benchAnswered 0x0001FF24 (.write 0x29 0xFF .one 1) (.ok 0)) with
      | .next t => some (t.bank.toNat, t.bankValid, t.err)
      | .fault _ => none
      | .refused _ => none) = some (1, true, .none) := by decide
/-- D-12: no capture, no request. -/
theorem test_wr8_sv : ended 1 (.wr8Sv 0x91) (bench 0x01009124 0 0 0 0 0) = some (.illegal, [7, 7, 7, 7, 7, 7], 0) := by decide
/-- R70: the high byte of a 2-byte read is transferred, the sensor changes both registers, and then it answers: the value is torn. -/
theorem test_rd16_may_be_torn :
    (transportAnswers (.ok 0) (sensorChanges 1 0x1F 0xBB (sensorChanges 1 0x1E 0xAA
      (transfersByte 0 0 (sensorBench (.read 0x29 0x1E .two)))))).bus = .answered (.read 0x29 0x1E .two) (.ok 0x12BB) := by decide
/-- R70: between its bytes a 2-byte write stands half done; here its low byte has landed. -/
theorem test_wr16_may_stand_half_done :
    (transfersByte 1 0 (sensorBench (.write 0x29 0x1E .two 0xAABB))).sensor
      = [(256 + 0x1E, 0x12), (256 + 0x1F, 0xBB), (256 + 0x20, 0x56), (256 + 0x21, 0x78)] := by decide
/-- S-23 and R283: a sensor that was moved to 0x30 is not reached at 0x29, also after a reset. -/
theorem test_moved_sensor_is_not_reached :
    (transportAnswers (.ok 0) { sensorBench (.write 0x29 0x1E .one 0xAA) with sensorAddr := 0x30 }).sensor
      = (sensorBench read13).sensor ∧
    (transportAnswers (.ok 7) { sensorBench (.read 0x29 0x1E .one) with sensorAddr := 0x30 }).bus
      = .answered (.read 0x29 0x1E .one) (.ok 7) ∧
    (resetBlock 0 0 { sensorBench read13 with sensorAddr := 0x30 }).sensorAddr = 0x30 ∧
    (resetBlock 0 0 { sensorBench read13 with sensorAddr := 0x30 }).devAddr = 0x29 := by decide
/-- S-20: where 0x8A is the sensor's address register, writing 0x30 to it moves the sensor; U4: a failed write may. -/
theorem test_address_register_moves_the_sensor (h : Config.isAddrReg 1#8 0x8A#8 = true) :
    (transportAnswers (.ok 0) (sensorBench (.write 0x29 0x8A .one 0x30))).sensorAddr = 0x30 ∧
    (transportAnswers (.fail 1) (sensorBench (.write 0x29 0x8A .one 0x30))).sensorAddr = 0x30 ∧
    (transportAnswers (.fail 0) (sensorBench (.write 0x29 0x8A .one 0x30))).sensorAddr = 0x29 := by
  refine ⟨?_, ?_, rfl⟩ <;>
    simp [transportAnswers, sensorServes, sensorBench, State.withSensor, takeBytes, wireBytes, Transfer.left, Transfer.none, sensorTake, h,
      State.reset, Config.devAddrReset]

/-- S-13, R63: 0x0020 to 0x44 puts 0x00 into 0x44 and 0x20 into 0x45. -/
theorem test_wr16 : (transportAnswers (.ok 0) { sensorBench (.write 0x29 0x44 .two 0x0020) with sensor := [] }).sensor
    = [(256 + 0x45, 0x20)] := by decide
/-- S-14. -/
theorem test_wr16_range : ended 1 (.wr16 0x44) (bench 0x4425 0x10000 0 0 0 0) = some (.range, [7, 7, 7, 7, 7, 7], 0) := by decide
/-- S-15. -/
theorem test_wr32 : (transportAnswers (.ok 0) { sensorBench (.write 0x29 0x04 .four 0x00000C80) with sensor := [] }).sensor
    = [(256 + 0x06, 0x0C), (256 + 0x07, 0x80)] := by decide
/-- S-16: the table (0xFF, 1), (0x00, 0), (0xFF, 0) replayed. -/
theorem test_seq_run :
    (let t := okRounds 15 .seqRun { bench 0x29 0 0 0 0 0 with tuning := [(0xFF, 1), (0x00, 0), (0xFF, 0)] }
     (t.engine, t.err, t.res.r0.toNat, t.seqPc.toNat, t.cfgValid, t.bank.toNat, t.bankValid))
      = (.idle, .none, 3, 3, true, 0, true) := by decide
/-- S-17: a failure at the second entry leaves SEQ_PC there, CFG_VALID 0 and RES0 as it was. -/
theorem test_seq_run_fails :
    (match exec .seqRun { benchAnswered 0x29 (.write 0x29 0x00 .one 0) .fail with seqPc := 1 } with
      | .next t => some (t.seqPc.toNat, t.cfgValid, t.res.r0.toNat, t.err)
      | .fault _ => none
      | .refused _ => none) = some (1, false, 7, .transport) := by decide
/-- S-21. -/
theorem test_set_addr :
    (match execTimes 2 (.setAddr 0x8A 0xB0) (benchAnswered 0x00B08A2A (.write 0x29 0x8A .one 0x30) (.ok 0)) with
      | .next t => some (t.devAddr.toNat, t.err)
      | .fault _ => none
      | .refused _ => none) = some (0x30, .none) := by decide

/-! ## The host's side -/

/-- H-3 and H-4. -/
theorem test_host_writes :
    (Csr.write .devAddr 0xFFFFFFB0 { State.reset with tuning := [] }).devAddr = 0x30 ∧
    (Csr.write .stopVar 0x1AB { State.reset with tuning := [] }).statusWord = 0x1000 := by decide
/-- H-7 and H-10. -/
theorem test_host_write_while_busy :
    (Csr.write .cmd 1 (bench 0x12 0 0 0 0 0)).overrun = true ∧
    (Csr.write .status 3 { State.reset with tuning := [], overrun := true }).overrun = true := by decide
/-- H-12. -/
theorem test_status_after_illegal : (complete .illegal { State.reset with tuning := [] }).statusWord = 0x12 := by decide
/-- The accesses a program makes when every read returns the next word of `answers` (and 0 after the last), WAIT's first read ending it. -/
def accesses {α : Type} : HostProg α → List Word → List Access
  | .done _, _ => []
  | .write c v rest, ws => csrw c v :: accesses rest ws
  | .read c rest, [] => csrr c :: accesses (rest 0) []
  | .read c rest, w :: ws => csrr c :: accesses (rest w) ws
  | .wait rest, [] => csrr .status :: accesses (rest 0) []
  | .wait rest, w :: ws => csrr .status :: accesses (rest w) ws

/-- R100: RMW8 reads, then writes `(RES0 & ~clear) | set`. -/
theorem test_rmw8 :
    accesses (rmw8 0x10 0x0F 0x80) [2, 0x5A, 2]
      = [csrw .cmd 0x00001020, csrr .status, csrr (.res 0), csrw .cmd 0x00D01024, csrr .status] := by decide
/-- The test values of spec/95_test_vectors.md section 1 for the symbols; the others are any. -/
def testSymbols : Symbols :=
  { rId := 0, identity := 0, rVolt := 0, voltBit := 0, rSv := 0x91, rSvBank := 1, capture := { enter := [], leave := [], home := 0 }
    restore := { enter := [], leave := [], home := 0 }
    rMsrcCfg := 0, rFinalSrl := 0x44, rSeqCfg := 0x10, rVcselPre := 0x11, rVcselFinal := 0x12, rMsrcTo := 0x14, rPreTo := 0x20
    rFinalTo := 0x22, rStart := 0, rIntStatus := 0x13, rIntClear := 0x0B, rResult := 0x1E, rAddr := 0x8A, vStart := 1
    vVhvInit := 0x40, vPhaseInit := 0, vSeqVhv := 1, vSeqPhase := 2, vSeqAll := 0xFF, vSeqNarrow := 0xE8, vMsrcBits := 0x12
    vClear := 1 }

/-- R294: on TIMEOUT (STATUS 0x62) the calibration pass makes no further write. -/
theorem test_calibration_stops :
    accesses (calibrationPass testSymbols 0x40) [2, 0x62]
      = [csrw .cmd 0x00410024, csrr .status, csrw .cmd 0x00071328, csrr .status] := by decide
/-- R300: after a good poll the range is read, the latch cleared. -/
theorem test_continuous_read :
    accesses (continuousRead testSymbols) [2, 2, 0x012C, 2]
      = [csrw .cmd 0x00071328, csrr .status, csrw .cmd 0x00001E21, csrr .status, csrr (.res 0), csrw .cmd 0x00010B24, csrr .status] := by
  decide

/-- The command words a program issues. -/
def issuedWords {α : Type} (p : HostProg α) (answers : List Word) : List Word :=
  (accesses p answers).filterMap fun a => if a.offset = 0 then a.data else none

/-- R296 step 2 for the final range: the pre-range's 139 MCLKs are added back before the value is encoded (C-ST1's numbers). -/
theorem test_vcsel_reencodes_the_timeout :
    accesses (reencodeTimeout testSymbols .final 10
        { seq := 0xE8, res0 := 0, msrcUs := 694, preMclks := 139, preUs := 7420, finUs := 22040 }) [2, 578, 2, 0x02B3]
      = [csrw (.arg 0) 22040, csrw (.arg 1) 10, csrw .cmd 0x05, csrr .status, csrr (.res 0), csrw (.arg 0) 717, csrw .cmd 0x02,
         csrr .status, csrr (.res 0), csrw (.arg 0) 0x02B3, csrw .cmd 0x2225, csrr .status] := by decide
/-- R296: a period of 16 is no final-range one (STATUS 0x32, VALIDATION), and nothing has been written to the sensor. -/
theorem test_vcsel_change_validates_first :
    issuedWords (vcselPeriodChange testSymbols .final 16)
        [33000, 2, 0xE8, 2, 6, 2, 4, 2, 0x0C, 2, 0x0145, 2, 0x02B3, 2, 0x000D0A0E, 694, 139, 7420, 22040, 0x32]
      = [0x1020, 0x1120, 0x1220, 0x1420, 0x2021, 0x2221, 0x0B, 0x0100000A] := by decide
/-- R296's four steps in order, for a pre-range period of 16 (register value 7), with the final-range value written. -/
theorem test_vcsel_change_runs_its_steps :
    issuedWords (vcselPeriodChange testSymbols .pre 16)
        ([33000, 2, 0xE8, 2, 6, 2, 4, 2, 0x0C, 2, 0x0145, 2, 0x02B3, 2, 0x000D0A0E, 694, 139, 7420, 22040, 2, 7, 2, 2, 122, 2, 0x79, 2]
          ++ [2, 0xE8, 2, 7, 2, 4, 2, 0x0C, 2, 0x79, 2, 0x02B3, 2, 0x000D0A10, 793, 122, 7443, 22690, 2, 1, 0x02B1, 2]
          ++ [2, 2, 2, 2, 2, 2])
      = [0x1020, 0x1120, 0x1220, 0x1420, 0x2021, 0x2221, 0x0B, 0x0A, 0x00071124, 0x05, 0x02, 0x2025]
        ++ [0x1020, 0x1120, 0x1220, 0x1420, 0x2021, 0x2221, 0x0B, 0x0D, 0x2225]
        ++ [0x00021024, 0x00010024, 0x00071328, 0x00010B24, 0x24, 0x00E81024] := by decide

/-! ## Witnesses: concrete states and operands that meet the hypotheses of each statement, at the boundaries of its clauses -/

theorem witness_DecodeReadsBackEveryEncodedCommand :
    Instr.wf (.rd16 0xFE) = true ∧ Instr.wf (.rd32 0xFC) = true ∧ Instr.wf (.wr16 0xFD) = true ∧ Instr.wf (.wr32 0xFB) = true ∧
    Instr.wf (.setAddr 0xFE 0xFF) = true ∧ Instr.wf (.wr8 0xFF 0xFF) = true := by decide

theorem witness_EveryLegalWordIsOneCommandsEncoding :
    decode 0x0000FE21 = .ok (.rd16 0xFE) ∧ decode 0x01FFFF28 = .ok (.pollZ 0xFF 0xFF) := by decide

/-- A block about to run GUARD_CHECK. -/
def engineNext (s : State) : State := { s with next := .engine }

theorem witness_StepRunsTheDecodedCommand :
    (engineNext (bench 0x11 0 0 0 0 0)).next = .engine ∧ (engineNext (bench 0x11 0 0 0 0 0)).engine = .running 0x11 .start ∧
    decode 0x11 = .ok .guardCheck ∧ ∃ t, exec .guardCheck (engineNext (bench 0x11 0 0 0 0 0)) = .next t :=
  ⟨rfl, rfl, by decide, _, rfl⟩

theorem witness_IllegalWordsOnlyComplete :
    (engineNext (bench 0x06 0 0 0 0 0)).next = .engine ∧ (engineNext (bench 0x06 0 0 0 0 0)).engine = .running 0x06 .start ∧
    decode 0x06 = .error .reservedOpcode := ⟨rfl, rfl, by decide⟩

/-- Both sides of the equivalence are met: a half-word access, an odd offset, and the first word past the window; 0xFC is inside. -/
theorem witness_OnlyAMalformedHostAccessStops :
    hostAccess { offset := 0, bytes := 2, data := none } (bench 1 0 0 0 0 0) = .refused .csrAccessShape ∧
    hostAccess { offset := 2, bytes := 4, data := none } (bench 1 0 0 0 0 0) = .refused .csrAccessShape ∧
    hostAccess { offset := 0x100, bytes := 4, data := none } (bench 1 0 0 0 0 0) = .fault .csrOutsideWindow ∧
    ∃ t, hostAccess { offset := 0xFC, bytes := 4, data := none } (bench 1 0 0 0 0 0) = .next t := ⟨rfl, rfl, rfl, _, rfl⟩

theorem witness_CommandsLeaveInputsAndSensorAlone : ∃ t, exec .guardArm (bench 0x10 0 0 0 0 0) = .next t := ⟨_, rfl⟩

theorem witness_EngineSeesTheSensorOnlyThroughResponses : ∃ t, exec (.rd8 0x13) (bench 0x1320 0 0 0 0 0) = .next t := ⟨_, rfl⟩

/-- The engine's invariant holds of a bench at a command's start. -/
theorem bench_inv (cmd : Word) (a0 a1 a2 a3 a4 : Nat) : EngineInv (bench cmd a0 a1 a2 a3 a4) :=
  ⟨⟨rfl, rfl, rfl⟩, Nat.zero_le 65535, Nat.le_refl 0, trivial⟩

/-- And of one that waits for an answered request, where the request is the command's. -/
theorem benchAnswered_inv {cmd : Word} {i : Instr} {r : Request} (a : Reply) (hd : decode cmd = .ok i)
    (hr : i.request (benchAnswered cmd r a) = some r) : EngineInv (benchAnswered cmd r a) :=
  ⟨⟨rfl, rfl, i, r, hd, hr, rfl⟩, Nat.zero_le 65535, Nat.le_refl 0, trivial⟩

/-- And of one where lines of the command stand before what it may go on with. -/
theorem benchLines_inv {cmd : Word} {i : Instr} {ws : List Line} {k : After} (hd : decode cmd = .ok i) (hk : k ∈ i.afters)
    (hw : ∀ l ∈ ws, i.writes l = true) (hs : ∀ v, Line.seqPc v ∉ ws) : EngineInv (benchAt cmd (.lines ws k) 0 0 0 0 0) :=
  ⟨⟨rfl, rfl, rfl, i, hd, hk, hw⟩, Nat.zero_le 65535, Nat.le_refl 0, fun v h => absurd h (hs v)⟩

/-- Turns that end a command: with no error, with TRANSPORT on a read, and with TRANSPORT on a write to 0xFF. -/
theorem witness_EndingATurnWritesOnlyStatus :
    (EngineInv (benchAt 0x03 (.lines [] (.finish .none)) 0 0 0 0 0) ∧ decode 0x03 = .ok .macroPeriod ∧
      ∃ t, exec .macroPeriod (benchAt 0x03 (.lines [] (.finish .none)) 0 0 0 0 0) = .next t ∧ t.engine = .idle ∧ t.err = .none) ∧
    (EngineInv (benchAnswered 0x1320 read13 .fail) ∧ decode 0x1320 = .ok (.rd8 0x13) ∧
      ∃ t, exec (.rd8 0x13) (benchAnswered 0x1320 read13 .fail) = .next t ∧ t.engine = .idle ∧ t.err = .transport) ∧
    (EngineInv (benchAnswered 0x0001FF24 (.write 0x29 0xFF .one 1) .fail) ∧ decode 0x0001FF24 = .ok (.wr8 0xFF 0x01) ∧
      ∃ t, exec (.wr8 0xFF 0x01) { benchAnswered 0x0001FF24 (.write 0x29 0xFF .one 1) .fail with bankValid := true } = .next t ∧
        t.engine = .idle ∧ t.bankValid = false) :=
  ⟨⟨benchLines_inv (by decide : decode 0x03 = .ok .macroPeriod) (by decide) (by simp) (by simp), by decide, _, rfl, rfl, rfl⟩,
    ⟨benchAnswered_inv _ (by decide : decode 0x1320 = .ok (.rd8 0x13)) (by decide), by decide, _, rfl, rfl, rfl⟩,
    ⟨benchAnswered_inv _ (by decide : decode 0x0001FF24 = .ok (.wr8 0xFF 0x01)) (by decide), by decide, _, rfl, rfl, rfl⟩⟩

/-- Lines before an end, the end itself, and lines before a loop's head. -/
theorem witness_WaitingLinesRunInOrder :
    (benchAt 0x0C (.lines [.budget 5] (.finish .none)) 0 0 0 0 0).engine = .running 0x0C (.lines [.budget 5] (.finish .none)) ∧
    (benchAt 0x0C (.lines [] (.finish .none)) 0 0 0 0 0).engine = .running 0x0C (.lines [] (.finish .none)) ∧
    (benchAt 0x29 (.lines [.bankValid, .seqPc 1] .loop) 0 0 0 0 0).engine = .running 0x29 (.lines [.bankValid, .seqPc 1] .loop) :=
  ⟨rfl, rfl, rfl⟩

/-- The clauses' premises hold of some turn: BUDGET_US is left alone at the first turn and written at the second; STOP_VAR, DEV_ADDR,
SEQ_PC, BANK, DEADLINE and the sticky flag change in these. -/
theorem witness_EachRegisterHasItsWriters :
    (EngineInv (benchAt 0x0C (.lines [.budget 5] (.finish .none)) 0 0 0 0 0) ∧ decode 0x0C = .ok .budgetGet ∧
      ∃ t, exec .budgetGet (benchAt 0x0C (.lines [.budget 5] (.finish .none)) 0 0 0 0 0) = .next t ∧ t.budgetUs ≠ 0) ∧
    (EngineInv (benchAt 0x01001320 (.lines [.stopVar 5, .stopValid] (.finish .none)) 0 0 0 0 0) ∧
      decode 0x01001320 = .ok (.rd8Cap 0x13) ∧
      ∃ t, exec (.rd8Cap 0x13) (benchAt 0x01001320 (.lines [.stopVar 5, .stopValid] (.finish .none)) 0 0 0 0 0) = .next t ∧
        t.stopVar ≠ 0) ∧
    (EngineInv (benchAnswered 0x00308A2A (.write 0x29 0x8A .one 0x30) (.ok 0)) ∧ decode 0x00308A2A = .ok (.setAddr 0x8A 0x30) ∧
      ∃ t, exec (.setAddr 0x8A 0x30) (benchAnswered 0x00308A2A (.write 0x29 0x8A .one 0x30) (.ok 0)) = .next t ∧ t.devAddr ≠ 0x29) ∧
    (EngineInv (benchAnswered 0x0001FF24 (.write 0x29 0xFF .one 1) (.ok 0)) ∧ decode 0x0001FF24 = .ok (.wr8 0xFF 0x01) ∧
      ∃ t, exec (.wr8 0xFF 0x01) (benchAnswered 0x0001FF24 (.write 0x29 0xFF .one 1) (.ok 0)) = .next t ∧ t.bank ≠ 0) ∧
    (∃ t, exec .guardArm { bench 0x10 0 0 0 0 0 with ioTimeout := 500 } = .next t ∧ t.deadline ≠ 0) ∧
    (∃ t, exec .guardCheck { bench 0x11 0 0 0 0 0 with guardEn := true, tick := 1 } = .next t ∧ t.didTimeout = true) ∧
    (∃ t, exec .timeoutOccurred { bench 0x12 0 0 0 0 0 with didTimeout := true } = .next t ∧ t.didTimeout = false) := by
  refine ⟨⟨benchLines_inv (by decide : decode 0x0C = .ok .budgetGet) (by decide) (by decide) (by simp), by decide, _, rfl, by decide⟩,
    ⟨benchLines_inv (by decide : decode 0x01001320 = .ok (.rd8Cap 0x13)) (by decide) (by decide) (by simp), by decide, _, rfl, by decide⟩,
    ⟨benchAnswered_inv _ (by decide : decode 0x00308A2A = .ok (.setAddr 0x8A 0x30)) (by decide), by decide, _, rfl, by decide⟩,
    ⟨benchAnswered_inv _ (by decide : decode 0x0001FF24 = .ok (.wr8 0xFF 0x01)) (by decide), by decide, _, rfl, by decide⟩,
    ⟨_, rfl, by decide⟩, ⟨_, rfl, rfl⟩, ⟨_, rfl, rfl⟩⟩

/-- The clauses on BANK_VALID and RES0 to RES5: set after an Ok write to 0xFF, cleared after a failed one; RES0 to RES5 changed by
STEP_TIMEOUTS, RES1 by BUDGET_SET, RES0 by a read. -/
theorem witness_EachRegisterHasItsWriters_results :
    (EngineInv (benchAt 0x0001FF24 (.lines [.bankValid] (.finish .none)) 0 0 0 0 0) ∧ decode 0x0001FF24 = .ok (.wr8 0xFF 0x01) ∧
      ∃ t, exec (.wr8 0xFF 0x01) (benchAt 0x0001FF24 (.lines [.bankValid] (.finish .none)) 0 0 0 0 0) = .next t ∧
        t.bankValid = true) ∧
    (∃ t, exec (.wr8 0xFF 0x01) { benchAnswered 0x0001FF24 (.write 0x29 0xFF .one 1) .fail with bankValid := true } = .next t ∧
      t.bankValid = false) ∧
    (EngineInv (bench 0x0B 0x0C0406E8 0x02B30145 0 0 0) ∧ decode 0x0B = .ok .stepTimeouts ∧
      ∃ t, exec .stepTimeouts (bench 0x0B 0x0C0406E8 0x02B30145 0 0 0) = .next t ∧ t.res.r0 ≠ 7 ∧ t.res.r1 ≠ 7 ∧ t.res.r4 ≠ 7 ∧
        t.res.r5 ≠ 7) ∧
    (EngineInv (benchAt 0x0D (.lines [.res 1 5] (.finish .none)) 0 0 0 0 0) ∧ decode 0x0D = .ok .budgetSet ∧
      ∃ t, exec .budgetSet (benchAt 0x0D (.lines [.res 1 5] (.finish .none)) 0 0 0 0 0) = .next t ∧ t.res.r1 ≠ 7) ∧
    (EngineInv (benchAnswered 0x1320 read13 (.ok 4)) ∧ decode 0x1320 = .ok (.rd8 0x13) ∧
      ∃ t, exec (.rd8 0x13) (benchAnswered 0x1320 read13 (.ok 4)) = .next t ∧ t.res.r0 ≠ 7) :=
  ⟨⟨benchLines_inv (by decide : decode 0x0001FF24 = .ok (.wr8 0xFF 0x01)) (by decide) (by decide) (by simp), by decide, _, rfl, rfl⟩,
    ⟨_, rfl, rfl⟩,
    ⟨bench_inv 0x0B 0x0C0406E8 0x02B30145 0 0 0, by decide, _, rfl, by decide, by decide, by decide, by decide⟩,
    ⟨benchLines_inv (by decide : decode 0x0D = .ok .budgetSet) (by decide) (by decide) (by simp), by decide, _, rfl, by decide⟩,
    ⟨benchAnswered_inv _ (by decide : decode 0x1320 = .ok (.rd8 0x13)) (by decide), by decide, _, rfl, by decide⟩⟩

/-- SEQ_RUN's clauses of the same statement: CFG_VALID is set at the table's end, SEQ_PC when an entry is done. -/
theorem witness_EachRegisterHasItsWriters_seqRun :
    EngineInv (benchAt 0x29 (.lines [] .loop) 0 0 0 0 0) ∧ decode 0x29 = .ok .seqRun ∧
    (∃ t, exec .seqRun (benchAt 0x29 (.lines [] .loop) 0 0 0 0 0) = .next t ∧ t.cfgValid = true) ∧
    (∃ t, exec .seqRun { benchAnswered 0x29 (.write 0x29 0x10 .one 5) (.ok 0) with tuning := [(0x10, 5)] } = .next t ∧ t.seqPc ≠ 0) :=
  ⟨benchLines_inv (by decide : decode 0x29 = .ok .seqRun) (by decide) (by simp) (by simp), by decide, ⟨_, rfl, rfl⟩, ⟨_, rfl, by decide⟩⟩

theorem witness_EveryStepKeepsTheEngineInv :
    EngineInv (engineNext (bench 0x11 0 0 0 0 0)) ∧ ∃ t, step (engineNext (bench 0x11 0 0 0 0 0)) = .next t :=
  ⟨bench_inv 0x11 0 0 0 0 0, _, rfl⟩

/-- A write to 0xFF in flight at the sensor's address, not yet transferred and transferred: the premises of the shadow's invariant. -/
theorem witness_EveryStepKeepsTheBankShadow_inFlight :
    EngineInv { benchAt 0x0001FF24 .await 0 0 0 0 0 with bus := .pending (.write 0x29 0xFF .one 1) .none, next := .wire 0 0 } ∧
    ShadowInv { benchAt 0x0001FF24 .await 0 0 0 0 0 with bus := .pending (.write 0x29 0xFF .one 1) .none, next := .wire 0 0 } ∧
    (benchAt 0x0001FF24 .await 0 0 0 0 0).sensorAddr = 0x29 ∧
    (∃ t, step { benchAt 0x0001FF24 .await 0 0 0 0 0 with bus := .pending (.write 0x29 0xFF .one 1) .none, next := .wire 0 0 } = .next t ∧
      t.sensorBank = 1 ∧ t.bus = .pending (.write 0x29 0xFF .one 1) { Transfer.none with b0 := some 1 }) ∧
    ShadowInv { benchAt 0x0001FF24 .await 0 0 0 0 0 with
      bus := .pending (.write 0x29 0xFF .one 1) { Transfer.none with b0 := some 1 }, sensorBank := 1, bankValid := true } :=
  ⟨⟨⟨rfl, rfl, .wr8 0xFF 0x01, _, by decide, rfl, rfl⟩, by decide, by decide, trivial⟩, (by intro h; cases h), rfl, ⟨_, rfl, by decide, by decide⟩,
    rfl⟩

/-- Also while a write to 0xFF has been answered and BANK is not yet updated. -/
theorem witness_EveryStepKeepsTheBankShadow :
    EngineInv (engineNext { benchAnswered 0x0001FF24 (.write 0x29 0xFF .one 1) (.ok 0) with sensorBank := 1, bankValid := true }) ∧
    ShadowInv (engineNext { benchAnswered 0x0001FF24 (.write 0x29 0xFF .one 1) (.ok 0) with sensorBank := 1, bankValid := true }) ∧
    ∃ t, step (engineNext { benchAnswered 0x0001FF24 (.write 0x29 0xFF .one 1) (.ok 0) with sensorBank := 1, bankValid := true })
      = .next t :=
  ⟨⟨⟨rfl, rfl, .wr8 0xFF 0x01, _, by decide, rfl, rfl⟩, by decide, by decide, trivial⟩, by intro w _; rfl, _, rfl⟩

theorem witness_EveryStepKeepsMemoryCanonical :
    (sensorBench read13).sensor.wf = true ∧ ∃ t, step { sensorBench read13 with next := .sensor 0xFF 0xFE 5 } = .next t :=
  ⟨by decide, _, rfl⟩

/-- The flag is kept by another command, cleared by its read, and cleared by reset. -/
theorem witness_StickyFlagIsClearedOnlyByItsRead :
    (EngineInv (engineNext { bench 0x10 0 0 0 0 0 with didTimeout := true }) ∧
      ∃ t, step (engineNext { bench 0x10 0 0 0 0 0 with didTimeout := true }) = .next t ∧ t.didTimeout = true) ∧
    (∃ t, step (engineNext { bench 0x12 0 0 0 0 0 with didTimeout := true }) = .next t ∧ t.didTimeout = false) ∧
    (∃ t, step { bench 0x12 0 0 0 0 0 with didTimeout := true, next := .reset 0 0 } = .next t ∧ t.didTimeout = false) := by
  refine ⟨⟨⟨⟨rfl, rfl, rfl⟩, by decide, by decide, trivial⟩, _, rfl, rfl⟩, ⟨_, rfl, rfl⟩, ⟨_, rfl, rfl⟩⟩

/-- A tick event that would go back, and one that goes on. -/
theorem witness_TickNeverGoesBack :
    (∃ t, step { bench 1 0 0 0 0 0 with tick := 5, next := .tick 4 } = .next t ∧ t.tick = 5) ∧
    (∃ t, step { bench 1 0 0 0 0 0 with tick := 5, next := .tick 6 } = .next t ∧ t.tick = 6) := ⟨⟨_, rfl, rfl⟩, ⟨_, rfl, rfl⟩⟩

theorem witness_DeadlineChangesOnlyWhileBusy :
    (∃ t, step (engineNext { bench 0x10 0 0 0 0 0 with ioTimeout := 500 }) = .next t ∧ t.deadline ≠ 0) ∧
    (∃ t, step { bench 0x10 0 0 0 0 0 with deadline := 3, next := .reset 0 0 } = .next t ∧ t.deadline ≠ 3) :=
  ⟨⟨_, rfl, by decide⟩, ⟨_, rfl, by decide⟩⟩

/-- Reset with a write in flight and with none. -/
theorem witness_ResetLeavesTheTableOfR45 :
    ({ sensorBench (.write 0x29 0xFF .one 5) with next := .reset 1 9 } : State).next = .reset 1 9 ∧
    (∃ t, step { sensorBench (.write 0x29 0xFF .one 5) with next := .reset 1 9 } = .next t ∧ t.sensorBank = 5) ∧
    ({ bench 1 0 0 0 0 0 with next := .reset 1 9 } : State).bus = .idle := ⟨rfl, ⟨_, rfl, rfl⟩, rfl⟩

/-- The four bytes 0x01, 0x02, 0x03, 0x04 at register 0x1E, of which `took` have reached the sensor, and what its registers then hold. -/
def resetMidWrite (took : BitVec 4) : List Nat × Nat :=
  let t := resetBlock took 9 { sensorBench (.write 0x29 0x1E .four 0x01020304) with next := .reset took 9 }
  ([t.sensor.read (256 + 0x1E), t.sensor.read (256 + 0x1F), t.sensor.read (256 + 0x20), t.sensor.read (256 + 0x21)].map BitVec.toNat,
    t.sensorBank.toNat)

/-- A WRITE in flight at reset of which no byte, every byte, or the second and third have landed; and a bank select that has, or not. -/
theorem witness_ResetTouchesTheSensorOnlyByAWriteInFlight :
    (sensorBench (.write 0x29 0x1E .four 0x01020304)).sensor.wf = true ∧ (0x1E : Byte).toNat + Width.bytes .four ≤ 0xFF ∧
    resetMidWrite 0 = ([0x12, 0x34, 0x56, 0x78], 1) ∧ resetMidWrite 15 = ([1, 2, 3, 4], 1) ∧
    resetMidWrite 6 = ([0x12, 2, 3, 0x78], 1) ∧
    (resetBlock 0 9 (sensorBench (.write 0x29 0xFF .one 5))).sensorBank = 1 ∧
    (resetBlock 15 9 (sensorBench (.write 0x29 0xFF .one 5))).sensorBank = 5 := by decide

/-- The same with the first byte transferred before the reset, which the mask then no longer names; and with the sensor at another address. -/
theorem witness_ResetTouchesTheSensorOnlyByAWriteInFlight_partly :
    (resetBlock 5 9 { sensorBench (.write 0x29 0x1E .four 0x01020304) with
        bus := .pending (.write 0x29 0x1E .four 0x01020304) { Transfer.none with b0 := some 1 } }).sensor
      = [(256 + 0x1E, 0x12), (256 + 0x1F, 0x34), (256 + 0x20, 3), (256 + 0x21, 0x78)] ∧
    (resetBlock 15 9 { sensorBench (.write 0x29 0x1E .four 0x01020304) with sensorAddr := 0x30 }).sensor = (sensorBench read13).sensor := by
  decide

theorem witness_ResetTouchesTheSensorOnlyByAWriteInFlight_step (took : BitVec 4) :
    step { sensorBench (.write 0x29 0x1E .four 0x01020304) with next := .reset took 9 }
      = .next (drawNext (resetBlock took 9 { sensorBench (.write 0x29 0x1E .four 0x01020304) with next := .reset took 9 })) := rfl

/-- An idle block with a host access next. -/
def hostBench (off : Nat) (data : Option Word) : State :=
  { bench 0 0 0 0 0 0 with engine := .idle, next := .host { offset := off, bytes := 4, data := data } }

/-- Every offset of the map that has a clause, the first reserved one and the last. -/
theorem witness_HostReadsReturnTheRegisters :
    ∀ off ∈ [0x00, 0x04, 0x08, 0x1C, 0x20, 0x34, 0x38, 0x3C, 0x40, 0x44, 0x48, 0x4C, 0x50, 0x54, 0x58, 0x5C, 0xFC],
      (hostBench off none).next = .host { offset := off, bytes := 4, data := none } ∧ off % 4 = 0 ∧ off < 0x100 ∧
      (hostBench off none).tuning.length ≤ 65535 := by decide

theorem witness_HostWritesAreDroppedWhileBusy :
    ∀ off ∈ [0x00, 0x04, 0x08, 0x1C, 0x20, 0x38, 0x3C, 0x44, 0x4C, 0x50, 0xFC],
      ({ hostBench off (some 0x100) with engine := .running 0x28 .await } : State).next
        = .host { offset := off, bytes := 4, data := some 0x100 } ∧
      ({ hostBench off (some 0x100) with engine := .running 0x28 .await } : State).engine = .running 0x28 .await ∧
      off % 4 = 0 ∧ off < 0x100 := by decide

theorem witness_HostWritesWhileIdle :
    ∀ off ∈ [0x00, 0x04, 0x08, 0x0C, 0x10, 0x14, 0x18, 0x1C, 0x38, 0x44, 0x4C, 0x20, 0x5C, 0xFC],
      (hostBench off (some 0xFFFFFFFF)).engine = .idle ∧
      (hostBench off (some 0xFFFFFFFF)).next = .host { offset := off, bytes := 4, data := some 0xFFFFFFFF } ∧
      off % 4 = 0 ∧ off < 0x100 := by decide

/-- Writes that end at register 0xFE, and the bank select. -/
theorem witness_OkWritesReachTheirRegisters :
    (sensorBench (.write 0x29 0xFB .four 0x01020304)).bus = .pending (.write 0x29 0xFB .four 0x01020304) .none ∧
    (sensorBench (.write 0x29 0xFB .four 0x01020304)).sensor.wf = true ∧ (0xFB : Byte).toNat + Width.bytes .four ≤ 0xFF ∧
    (0xFD : Byte).toNat + Width.bytes .two ≤ 0xFF ∧ (0xFE : Byte).toNat + Width.bytes .one ≤ 0xFF ∧
    (sensorBench (.write 0x29 0xFF .one 5)).bus = .pending (.write 0x29 0xFF .one 5) .none := by decide

/-- Bytes that can be transferred by themselves, the last one of a write and of a read, one past the end, one transferred already; and a
sensor at another address. -/
theorem witness_OkWritesReachTheirRegisters_bytes :
    3 < Width.bytes .four ∧ Width.bytes .two ≤ 2 ∧ Transfer.none.get 3 = none ∧ ({ Transfer.none with b3 := some 4 } : Transfer).get 3 ≠ none ∧
    (transfersByte 3 0 (sensorBench (.write 0x29 0x1E .four 0x01020304))).bus
      = .pending (.write 0x29 0x1E .four 0x01020304) { Transfer.none with b3 := some 4 } ∧
    (transfersByte 3 7 (sensorBench (.read 0x29 0xFC .four))).bus = .pending (.read 0x29 0xFC .four) { Transfer.none with b3 := some 7 } ∧
    ({ sensorBench read13 with sensorAddr := 0x30 } : State).bus = .pending (.read 0x29 0x13 .one) .none ∧ (0x29 : DevAddr) ≠ 0x30 := by
  decide

theorem witness_OkReadsReturnTheirRegisters :
    (sensorBench (.read 0x29 0xFC .four)).bus = .pending (.read 0x29 0xFC .four) .none ∧ (0xFC : Byte).toNat + Width.bytes .four ≤ 0x100 ∧
    (0xFE : Byte).toNat + Width.bytes .two ≤ 0x100 ∧ (0xFF : Byte).toNat + Width.bytes .one ≤ 0x100 := by decide

theorem witness_AReadMayReturnAnyByte :
    (sensorBench (.read 0x29 0xFF .one)).sensor.wf = true ∧ (sensorBench (.read 0x29 0xFF .one)).bus = .pending (.read 0x29 0xFF .one) .none ∧
    (sensorBench read13).bus = .pending (.read 0x29 0x13 .one) .none := by decide

/-- A failed read, and a failed write to 0xFF. -/
theorem witness_AFailedRequestRaisesTransport :
    (benchAnswered 0x1320 read13 .fail).engine = .running 0x1320 .await ∧ (benchAnswered 0x1320 read13 .fail).bus = .answered read13 .fail ∧
    (benchAnswered 0x1FF24 (.write 0x29 0xFF .one 1) .fail).bus = .answered (.write 0x29 0xFF .one 1) .fail := by decide

/-- A failed write of which no byte, every byte, or the first and last have landed; a failed bank select that took effect and one that did
not; a failed read; a port without a request. -/
theorem witness_AFailedAnswerDeliversTheFailure :
    (∀ p ∈ [((0 : BitVec 4), [0x12, 0x34, 0x56, 0x78]), (15, [1, 2, 3, 4]), (9, [1, 0x34, 0x56, 4])],
      let t := transportAnswers (.fail p.1) (sensorBench (.write 0x29 0x1E .four 0x01020304))
      [t.sensor.read (256 + 0x1E), t.sensor.read (256 + 0x1F), t.sensor.read (256 + 0x20), t.sensor.read (256 + 0x21)].map BitVec.toNat
        = p.2 ∧ t.bus = .answered (.write 0x29 0x1E .four 0x01020304) .fail) ∧
    (transportAnswers (.fail 0) (sensorBench (.write 0x29 0xFF .one 5))).sensorBank = 1 ∧
    (transportAnswers (.fail 1) (sensorBench (.write 0x29 0xFF .one 5))).sensorBank = 5 ∧
    (transportAnswers (.fail 15) (sensorBench read13)).bus = .answered read13 .fail ∧
    (sensorBench (.write 0x29 0x1E .four 0x01020304)).sensor.wf = true ∧ (bench 0x13 0 0 0 0 0).bus = .idle := by decide

/-- A failed write to another address than the sensor's. -/
theorem witness_AFailedAnswerDeliversTheFailure_elsewhere :
    (transportAnswers (.fail 15) { sensorBench (.write 0x29 0x1E .four 0x01020304) with sensorAddr := 0x30 }).sensor
      = (sensorBench read13).sensor := by decide

theorem witness_TheEngineWaitsForItsAnswer :
    ({ benchAt 0x1320 .await 0 0 0 0 0 with bus := .pending read13 .none } : State).engine = .running 0x1320 .await ∧
    ({ benchAt 0x1320 .await 0 0 0 0 0 with bus := .pending read13 .none } : State).bus = .pending read13 .none := by decide

/-- Every bench starts its command; the witnesses below only give operands for the clauses. -/
theorem witness_start (cmd : Word) (a0 a1 a2 a3 a4 : Nat) : (bench cmd a0 a1 a2 a3 a4).engine = .running cmd .start := rfl

/-- T-DEC11, T-DEC13, T-DEC17: the last value that fits, the first that does not, the first operand that is too wide. -/
theorem witness_DecTimeoutWritesTheDecodedCount :
    ended 2 .decTimeout (bench 0x01 0x097F 0 0 0 0) = some (.none, [65025, 7, 7, 7, 7, 7], 0) ∧
    ended 1 .decTimeout (bench 0x01 0x0980 0 0 0 0) = some (.range, [7, 7, 7, 7, 7, 7], 0) ∧
    ended 1 .decTimeout (bench 0x01 0x10000 0 0 0 0) = some (.range, [7, 7, 7, 7, 7, 7], 0) := by decide

/-- T-ENC1, T-ENC5, T-ENC6, T-ENC15. -/
theorem witness_EncTimeoutWritesTheLeastShift :
    ended 2 .encTimeout (bench 0x02 0 0 0 0 0) = some (.none, [0, 7, 7, 7, 7, 7], 0) ∧
    ended 2 .encTimeout (bench 0x02 256 0 0 0 0) = some (.none, [0x00FF, 7, 7, 7, 7, 7], 0) ∧
    ended 2 .encTimeout (bench 0x02 257 0 0 0 0) = some (.none, [0x0180, 7, 7, 7, 7, 7], 0) ∧
    ended 1 .encTimeout (bench 0x02 0x10000 0 0 0 0) = some (.range, [7, 7, 7, 7, 7, 7], 0) := by decide

/-- T-MP1, T-MP10. -/
theorem witness_MacroPeriodWritesThePeriod :
    ended 2 .macroPeriod (bench 0x03 0 0 0 0 0) = some (.none, [0, 7, 7, 7, 7, 7], 0) ∧
    ended 2 .macroPeriod (bench 0x03 255 0 0 0 0) = some (.none, [972346, 7, 7, 7, 7, 7], 0) := by decide

/-- T-M2U5, T-M2U9. -/
theorem witness_MclkToUsRoundsHalfUp :
    ended 2 .mclkToUs (bench 0x04 5 0 0 0 0) = some (.none, [0, 7, 7, 7, 7, 7], 0) ∧
    ended 1 .mclkToUs (bench 0x04 1 0x100 0 0 0) = some (.range, [7, 7, 7, 7, 7, 7], 0) := by decide

/-- T-U2M3, T-U2M4, T-U2M8, T-U2M10. -/
theorem witness_UsToMclkDividesByThePeriod :
    ended 2 .usToMclk (bench 0x05 19 10 0 0 0) = some (.none, [0, 7, 7, 7, 7, 7], 0) ∧
    ended 2 .usToMclk (bench 0x05 20 10 0 0 0) = some (.none, [1, 7, 7, 7, 7, 7], 0) ∧
    ended 2 .usToMclk (bench 0x05 0xFFFFFFFF 1 0 0 0) = some (.none, [1126401074, 7, 7, 7, 7, 7], 0) ∧
    ended 1 .usToMclk (bench 0x05 5 0x100 0 0 0) = some (.range, [7, 7, 7, 7, 7, 7], 0) := by decide

/-- T-ENC14, T-ENC5, T-ENC1: the ends of the codec's ranges. -/
theorem witness_TimeoutCodecLaws :
    decTo (encTo 1) = 1 ∧ decTo (encTo 65535) = 65281 ∧ decTo (encTo 256) = 256 ∧ decTo (encTo 257) = 257 ∧ decTo 0x0900 ≤ 65535 := by
  decide

theorem witness_MacroPeriodIsStrictlyIncreasing : 254 < 255 ∧ mp 254 = 968532 ∧ mp 255 = 972346 ∧ mp 0 = 0 ∧ mp 1 = 3813 := by decide

/-- C-SQ2, C-SQ10. -/
theorem witness_SeqDecodeWritesTheEnables :
    ended 2 .seqDecode (bench 0x08 0xFF 0 0 0 0) = some (.none, [0x1F, 7, 7, 7, 7, 7], 0) ∧
    ended 1 .seqDecode (bench 0x08 0x100 0 0 0 0) = some (.range, [7, 7, 7, 7, 7, 7], 0) := by decide

/-- C-VD1, C-VD9. -/
theorem witness_VcselDecWritesThePeriod :
    ended 2 .vcselDec (bench 0x09 0 0 0 0 0) = some (.none, [2, 7, 7, 7, 7, 7], 0) ∧
    ended 1 .vcselDec (bench 0x09 0x100 0 0 0 0) = some (.range, [7, 7, 7, 7, 7, 7], 0) := by decide

/-- C-VE4, C-VE6, C-VE10, C-VE15. -/
theorem witness_VcselEncAcceptsOnlyLegalPeriods :
    ended 2 .vcselEncPre (bench 0x0A 18 0 0 0 0) = some (.none, [8, 7, 7, 7, 7, 7], 0) ∧
    ended 1 .vcselEncPre (bench 0x0A 10 0 0 0 0) = some (.validation, [7, 7, 7, 7, 7, 7], 0) ∧
    ended 2 .vcselEncFinal (bench 0x0100000A 10 0 0 0 0) = some (.none, [4, 7, 7, 7, 7, 7], 0) ∧
    ended 1 .vcselEncFinal (bench 0x0100000A 0x10C 0 0 0 0) = some (.range, [7, 7, 7, 7, 7, 7], 0) := by decide

/-- C-ST5, C-ST7, C-ST8: every field at its largest legal value, and two that are one too large. -/
theorem witness_StepTimeoutsWritesSixResults :
    ended 2 .stepTimeouts (bench 0x0B 0xFF7E7EFF 0x08FF08FF 0 0 0) = some (.none, [0x0100FEFE, 247944, 65281, 63226737, 0, 0], 0) ∧
    ended 1 .stepTimeouts (bench 0x0B 0x0C047FE8 0x02B30145 0 0 0) = some (.range, [7, 7, 7, 7, 7, 7], 0) ∧
    ended 1 .stepTimeouts (bench 0x0B 0x0C0406E8 0x09800145 0 0 0) = some (.range, [7, 7, 7, 7, 7, 7], 0) := by decide

/-- C-BG3, C-BG7, and the largest sum that fits. -/
theorem witness_BudgetGetSumsTheEnabledSteps :
    ended 3 .budgetGet (bench 0x0C 0 694 7420 22040 0) = some (.none, [2870, 7, 7, 7, 7, 7], 2870) ∧
    ended 1 .budgetGet (bench 0x0C 0x1E8 694 7420 22040 0) = some (.range, [7, 7, 7, 7, 7, 7], 0) ∧
    ended 3 .budgetGet (bench 0x0C 0x80 0 0 4294963875 0) = some (.none, [4294967295, 7, 7, 7, 7, 7], 4294967295) := by decide

/-- C-BS1, C-BS2, C-BS11, C-BS12: the checks at their boundaries. -/
theorem witness_BudgetSetAllotsTheFinalRange :
    ended 1 .budgetSet (bench 0x0D 0x0AE8 694 7420 139 19999) = some (.validation, [7, 7, 7, 7, 7, 7], 0) ∧
    ended 6 .budgetSet (bench 0x0D 0x0AE8 694 7420 139 20000) = some (.none, [0x01AA, 342, 7736, 1, 7, 7], 20000) ∧
    ended 1 .budgetSet (bench 0x0D 0x0080 0 0 0 20000) = some (.div0, [7, 7, 7, 7, 7, 7], 0) ∧
    ended 1 .budgetSet (bench 0x0D 0x0AE8 694 7420 0x10000 100) = some (.range, [7, 7, 7, 7, 7, 7], 0) := by decide

/-- C-BS7 to C-BS9: used one above the budget, equal to it, and a count that does not fit. -/
theorem witness_BudgetSetAllotsTheFinalRange_allotment :
    ended 1 .budgetSet (bench 0x0D 0x0AC0 0 16511 100 20000) = some (.validation, [7, 7, 7, 7, 7, 7], 0) ∧
    ended 6 .budgetSet (bench 0x0D 0x0AC0 0 16510 100 20000) = some (.none, [0x0063, 100, 0, 1, 7, 7], 20000) ∧
    ended 1 .budgetSet (bench 0x0D 0x0880 0 0 0 2000000000) = some (.range, [7, 7, 7, 7, 7, 7], 0) := by decide

/-- C-SE3, C-SE11, C-SE15: minus zero is accepted; a negative value and infinity are not. -/
theorem witness_SrlEncTruncatesTheLimit :
    ended 2 .srlEnc (bench 0x0E 0x80000000 0 0 0 0) = some (.none, [0, 7, 7, 7, 7, 7], 0) ∧
    ended 1 .srlEnc (bench 0x0E 0xBDCCCCCD 0 0 0 0) = some (.validation, [7, 7, 7, 7, 7, 7], 0) ∧
    ended 1 .srlEnc (bench 0x0E 0x7F800000 0 0 0 0) = some (.validation, [7, 7, 7, 7, 7, 7], 0) := by decide

/-- C-SD1, C-SD8. -/
theorem witness_SrlDecIsExact :
    ended 2 .srlDec (bench 0x0F 0 0 0 0 0) = some (.none, [0, 7, 7, 7, 7, 7], 0) ∧
    ended 2 .srlDec (bench 0x0F 65535 0 0 0 0) = some (.none, [0x43FFFF00, 7, 7, 7, 7, 7], 0) := by decide

/-- G-8: a guard that is not enabled. -/
theorem witness_GuardArmSetsTheDeadline :
    guardAfter 3 .guardArm { bench 0x10 0 0 0 0 0 with tick := 7 } = some (7, false, false) := by decide

/-- Both clauses, at the deadline and one past it: test_guard_check. Here a tick far past a guard that is not enabled. -/
theorem witness_GuardCheckReportsExpiry :
    ended 2 .guardCheck { bench 0x11 0 0 0 0 0 with deadline := 7, tick := 1000000000000 } = some (.none, [0, 7, 7, 7, 7, 7], 0) ∧
    guardAfter 1 .guardCheck { bench 0x11 0 0 0 0 0 with deadline := 1500, guardEn := true, tick := 1501 } = some (1500, true, true) := by
  decide

theorem witness_TimeoutOccurredReadsAndClears :
    (bench 0x12 0 0 0 0 0).engine = .running 0x12 .start ∧
    ({ bench 0x12 0 0 0 0 0 with didTimeout := true } : State).engine = .running 0x12 .start := ⟨rfl, rfl⟩

/-- A poll at its start, at its loop's head, and with a byte that hits, one that does not at the deadline, and one past it. -/
theorem witness_PollsReadThenCheckTheDeadline :
    (bench 0x00071328 0 0 0 0 0).engine = .running 0x00071328 .start ∧
    (benchAt 0x00071328 (.lines [] .loop) 0 0 0 0 0).engine = .running 0x00071328 (.lines [] .loop) ∧
    (benchAnswered 0x00071328 read13 (.ok 4)).bus = .answered read13 (.ok 4) ∧ (4 : Word) &&& zext 7 ≠ 0 ∧ (8 : Word) &&& zext 7 = 0 ∧
    ended 3 (.pollNz 0x13 7) { benchAnswered 0x00071328 read13 (.ok 8) with guardEn := true, deadline := 5, tick := 5 } = none ∧
    ended 3 (.pollNz 0x13 7) { benchAnswered 0x00071328 read13 (.ok 8) with guardEn := true, deadline := 5, tick := 6 }
      = some (.timeout, [0xFFFF, 7, 7, 7, 7, 7], 0) := by decide

theorem witness_AnUnboundedPollNeverEnds :
    (benchAt 0x00071328 (.lines [] .loop) 0 0 0 0 0).bus = .idle ∧ (benchAt 0x00071328 (.lines [] .loop) 0 0 0 0 0).guardEn = false ∧
    (∀ v ∈ ([0x00, 0x08, 0xF8] : List Word), v &&& zext 0x07 = 0) ∧ (∀ v ∈ ([0x01, 0x02, 0xFF] : List Word), v &&& zext 0x07 ≠ 0) :=
  ⟨rfl, rfl, by simp [zext], by simp [zext]⟩

theorem witness_ReadsIssueAndDeliver :
    (bench 0x1320 0 0 0 0 0).engine = .running 0x1320 .start ∧ (benchAnswered 0x1320 read13 (.ok 0xFF)).engine = .running 0x1320 .await ∧
    (benchAnswered 0x1320 read13 (.ok 0xFF)).bus = .answered read13 (.ok 0xFF) := by decide

/-- The clauses' premises: STOP_VALID both ways, ARG0 at 0xFFFF and 0x10000, a write below 0xFF and one at 0xFF. -/
theorem witness_WritesIssueAndKeepTheShadow :
    (bench 0x24 0 0 0 0 0).stopValid = false ∧ ({ bench 0x24 0 0 0 0 0 with stopValid := true } : State).stopValid = true ∧
    (bench 0x25 0xFFFF 0 0 0 0).arg.r0.toNat < 0x10000 ∧ 0x10000 ≤ (bench 0x25 0x10000 0 0 0 0).arg.r0.toNat ∧
    (benchAnswered 0x24 (.write 0x29 0xFE .one 1) (.ok 0)).bus = .answered (.write 0x29 0xFE .one 1) (.ok 0) ∧ (0xFE : Byte) ≠ 0xFF ∧
    (benchAnswered 0x24 (.write 0x29 0xFF .one 1) (.ok 0)).bus = .answered (.write 0x29 0xFF .one 1) (.ok 0) := by decide

theorem witness_SetAddrMovesTheDeviceAfterTheWrite :
    (bench 0x00B08A2A 0 0 0 0 0).engine = .running 0x00B08A2A .start ∧
    (benchAnswered 0x00B08A2A (.write 0x29 0x8A .one 0x30) (.ok 0)).bus = .answered (.write 0x29 0x8A .one 0x30) (.ok 0) := by decide

/-- SEQ_RUN at its start, before an entry, at the table's end, and with an entry answered, below 0xFF and at it. -/
theorem witness_SeqRunWritesTheEntryItStandsAt :
    (bench 0x29 0 0 0 0 0).engine = .running 0x29 .start ∧
    ({ benchAt 0x29 (.lines [] .loop) 0 0 0 0 0 with tuning := [(0x10, 5)] } : State).tuning[0]? = some (0x10, 5) ∧
    (benchAt 0x29 (.lines [] .loop) 0 0 0 0 0).tuning.length ≤ (benchAt 0x29 (.lines [] .loop) 0 0 0 0 0).seqPc.toNat ∧
    (benchAnswered 0x29 (.write 0x29 0xFE .one 1) (.ok 0)).bus = .answered (.write 0x29 0xFE .one 1) (.ok 0) ∧
    (benchAnswered 0x29 (.write 0x29 0xFF .one 1) (.ok 0)).bus = .answered (.write 0x29 0xFF .one 1) (.ok 0) := by decide

/-- S-16's requests: each entry once, in order. -/
theorem test_seq_run_requests :
    okRequests 15 .seqRun { bench 0x29 0 0 0 0 0 with tuning := [(0xFF, 1), (0x00, 0), (0xFF, 0)] }
      = [.write 0x29 0xFF .one 1, .write 0x29 0x00 .one 0, .write 0x29 0xFF .one 0] := by decide

/-- S-16's table and S-19's empty one. -/
theorem witness_SeqRunReplaysTheWholeTable :
    ({ bench 0x29 0 0 0 0 0 with tuning := [(0xFF, 1), (0x00, 0), (0xFF, 0)] } : State).engine = .running 0x29 .start ∧
    ({ bench 0x29 0 0 0 0 0 with tuning := [(0xFF, 1), (0x00, 0), (0xFF, 0)] } : State).bus = .idle ∧
    ({ bench 0x29 0 0 0 0 0 with tuning := [(0xFF, 1), (0x00, 0), (0xFF, 0)] } : State).tuning.length ≤ 65535 ∧
    (bench 0x29 0 0 0 0 0).tuning = [] := by decide

/-- Its clauses on the sensor: a table without an address register, at the sensor's address and at another. -/
theorem witness_SeqRunReplaysTheWholeTable_sensor :
    (bench 0x29 0 0 0 0 0).devAddr = (bench 0x29 0 0 0 0 0).sensorAddr ∧
    (∀ e ∈ ([(0xFF, 1), (0xFF, 0)] : List (Byte × Byte)), e.1 ≠ 0xFF → ∀ bank, Config.isAddrReg bank e.1 = false) ∧
    ({ bench 0x29 0 0 0 0 0 with sensorAddr := 0x30 } : State).devAddr ≠ 0x30 := ⟨rfl, by simp, by decide⟩

end Sys2Proof.Tests
end

section
/-! PROOFS. The engine's turn in any command while it waits: for the transport's answer, or with assignment lines left to write
(spec/00_scope.md R9, spec/20_memory.md R82, spec/60_exceptions.md R258). -/

namespace Sys2Proof.Machine

open Sys2Proof

/-! ## One turn of any command -/

/-- Every command is an instance of `turn`: commands differ only in their start, their loop's head and what they do with a response. -/
theorem exec_eq_turn (i : Instr) (s : State) : ∃ start loop onOk, exec i s = turn s start loop onOk := by
  cases i <;> exact ⟨_, _, _, rfl⟩

theorem exec_await_pending (i : Instr) {s : State} {cmd : Word} {r : Request} {p : Transfer}
    (he : s.engine = .running cmd .await) (hb : s.bus = .pending r p) : exec i s = .next s := by
  obtain ⟨start, loop, onOk, hturn⟩ := exec_eq_turn i s
  rw [hturn, turn_await _ _ _ he]
  simp [awaitReply, hb]

theorem exec_lines_cons (i : Instr) {s : State} {cmd : Word} {l : Line} {ws : List Line} {k : After}
    (he : s.engine = .running cmd (.lines (l :: ws) k)) :
    exec i s = .next { l.apply s with engine := .running cmd (.lines ws k) } := by
  obtain ⟨start, loop, onOk, hturn⟩ := exec_eq_turn i s
  have hl : (l.apply s).engine = .running cmd (.lines (l :: ws) k) := by rw [Line.apply_engine, he]
  rw [hturn, turn_lines _ _ _ he, emit_cons, setPos_of_running _ hl]

theorem raises_of_lines_nil_finish (i : Instr) {s : State} {cmd : Word} {e : ErrCode}
    (he : s.engine = .running cmd (.lines [] (.finish e))) : Raises i s e := by
  obtain ⟨start, loop, onOk, hturn⟩ := exec_eq_turn i s
  rw [Raises, hturn, turn_finish _ _ _ he, emit_nil_finish, complete]

/-! ## Several turns -/

@[simp] theorem execTimes_zero (i : Instr) (s : State) : execTimes 0 i s = .next s := rfl

theorem execTimes_succ {i : Instr} {s t : State} (n : Nat) (h : exec i s = .next t) :
    execTimes (n + 1) i s = execTimes n i t := by
  simp [execTimes, h]

theorem execTimes_one (i : Instr) (s : State) : execTimes 1 i s = exec i s := by
  cases h : exec i s <;> simp [execTimes, h]

theorem execTimes_add {i : Instr} {s t : State} {m : Nat} (n : Nat) (h : execTimes m i s = .next t) :
    execTimes (m + n) i s = execTimes n i t := by
  induction m generalizing s with
  | zero =>
    obtain rfl : s = t := by simpa using h
    rw [Nat.zero_add]
  | succ m ih =>
    cases hx : exec i s with
    | next u =>
      rw [execTimes_succ m hx] at h
      rw [Nat.succ_add, execTimes_succ _ hx, ih h]
    | fault f => simp [execTimes, hx] at h
    | refused f => simp [execTimes, hx] at h

theorem execTimes_of_exec_self {i : Instr} {s : State} (h : exec i s = .next s) (n : Nat) : execTimes n i s = .next s := by
  induction n with
  | zero => rfl
  | succ n ih => rw [execTimes_succ n h, ih]

/-! ## Lines do not look at the engine's position -/

theorem Line.apply_with_engine (l : Line) (s : State) (e : Engine) :
    l.apply { s with engine := e } = { l.apply s with engine := e } := by
  cases l <;> rfl

theorem applyAll_with_engine (ws : List Line) (s : State) (e : Engine) :
    applyAll ws { s with engine := e } = { applyAll ws s with engine := e } := by
  induction ws generalizing s with
  | nil => rfl
  | cons l ws ih => simp only [applyAll, Line.apply_with_engine, ih]

theorem execTimes_lines (i : Instr) {s : State} {cmd : Word} {ws : List Line} {k : After}
    (he : s.engine = .running cmd (.lines ws k)) :
    execTimes ws.length i s = .next { applyAll ws s with engine := .running cmd (.lines [] k) } := by
  induction ws generalizing s with
  | nil => simp [applyAll, ← he]
  | cons l ws ih =>
    calc execTimes (ws.length + 1) i s
        = execTimes ws.length i { l.apply s with engine := .running cmd (.lines ws k) } :=
          execTimes_succ _ (exec_lines_cons i he)
      _ = .next { applyAll (l :: ws) s with engine := .running cmd (.lines [] k) } := by
          rw [ih rfl, applyAll_with_engine, applyAll]

/-- The completion takes one turn after the last line (R258). -/
theorem execTimes_lines_finish (i : Instr) {s : State} {cmd : Word} {ws : List Line} {e : ErrCode}
    (he : s.engine = .running cmd (.lines ws (.finish e))) :
    execTimes (ws.length + 1) i s = .next { applyAll ws s with err := e, done := true, engine := .idle } := by
  rw [execTimes_add 1 (execTimes_lines i he), execTimes_one]
  exact raises_of_lines_nil_finish i rfl

/-! ## The statements -/

/-- Settles O10: one turn per line by `exec_lines_cons`, all of them by induction on the lines. -/
theorem waitingLinesRunInOrder : Obligations.WaitingLinesRunInOrder := by
  intro i s cmd ws k he
  refine ⟨?firstLine, execTimes_lines i he, ?atEnd⟩
  case firstLine =>
    rintro l rest rfl
    exact exec_lines_cons i he
  case atEnd =>
    rintro e rfl
    refine ⟨?noLineLeft, execTimes_lines_finish i he⟩
    rintro rfl
    exact raises_of_lines_nil_finish i he

/-- Settles O34: a turn with the request pending is a fixed point of the engine, so any number of turns is. -/
theorem theEngineWaitsForItsAnswer : Obligations.TheEngineWaitsForItsAnswer :=
  fun i _ _ _ _ he hb n => execTimes_of_exec_self (exec_await_pending i he hb) n

end Sys2Proof.Machine
end

section
/-! PROOFS. The engine's turn in any command while it runs, said once for all 29 commands: what a turn can do, and what the
command's rule lets it do there (spec/00_scope.md R9, spec/40_timing_model.md to spec/43_config_arith.md). -/

namespace Sys2Proof.Machine

open Sys2Proof

/-! ## A command's own deeds -/

/-- What the pseudocode of a command does in one turn, waiting aside. -/
inductive Deed where
  | stay
  | issue (r : Request)
  | emit (ws : List Line) (k : After)
  | raise (e : ErrCode)

/-- A deed's effect. -/
def Deed.run (d : Deed) (s : State) : State :=
  match d with
  | .stay => s
  | .issue r => Machine.issue r s
  | .emit ws k => Machine.emit ws k s
  | .raise e => complete e s

/-- A command as its deeds at its start, at its loop's head and on an Ok answer. -/
structure Script where
  start : State → Deed
  loop : State → Deed
  onOk : Request → Word → State → Deed

/-- The turn of the engine that follows a script. -/
def Script.exec (p : Script) (s : State) : Host.Outcome State Fault Refusal :=
  turn s ((p.start s).run s) ((p.loop s).run s) fun r v t => (p.onOk r v t).run t

/-- The script of a command that only computes. -/
def Script.computing (lines : State → Except ErrCode (List Line)) : Script where
  start s := match lines s with
    | .ok ws => .emit ws (.finish .none)
    | .error e => .raise e
  loop _ := .stay
  onOk _ _ _ := .stay

/-- The script of a command that makes one request, unless a check of its operands refuses it first. -/
def Script.accessing (refuse : State → Option ErrCode) (request : State → Request)
    (lines : Request → Word → List Line) : Script where
  start s := match refuse s with
    | none => .issue (request s)
    | some e => .raise e
  loop _ := .stay
  onOk r v _ := .emit (lines r v) (.finish .none)

/-- The script of a poll. -/
def Script.polling (reg : Byte) (hit : Word → Bool) : Script where
  start s := .emit (armLines s) .loop
  loop s := .issue (.read s.devAddr reg .one)
  onOk _ v s :=
    if hit v then .emit [.res 0 v] (.finish .none)
    else if expired s then .emit [.didTimeout, .res 0 0xFFFF] (.finish .timeout)
    else .emit [] .loop

/-- The script of SEQ_RUN. -/
def Script.replaying : Script where
  start _ := .emit [.cfgValid false, .seqPc 0] .loop
  loop s := match s.tuning[s.seqPc.toNat]? with
    | some (reg, b) => .issue (.write s.devAddr reg .one (zext b))
    | none => .emit [.cfgValid true, .res 0 (word s.tuning.length)] (.finish .none)
  onOk r _ s := .emit (shadowLines r ++ [.seqPc (s.seqPc + 1)]) .loop

/-- Every command's script; `exec_eq_script` ties it to the model. -/
def script : Instr → Script
  | .decTimeout => .computing decTimeoutLines
  | .encTimeout => .computing encTimeoutLines
  | .macroPeriod => .computing macroPeriodLines
  | .mclkToUs => .computing (mclkToUsLines Config.m2uBias)
  | .usToMclk => .computing usToMclkLines
  | .seqDecode => .computing (seqDecodeLines Config.seqBits)
  | .vcselDec => .computing vcselDecLines
  | .vcselEncPre => .computing (vcselEncLines Config.vcselPreSet)
  | .vcselEncFinal => .computing (vcselEncLines Config.vcselFinalSet)
  | .stepTimeouts => .computing (stepTimeoutsLines Config.m2uBias Config.seqBits)
  | .budgetGet => .computing (budgetGetLines Config.seqBits)
  | .budgetSet => .computing (budgetSetLines Config.seqBits)
  | .srlEnc => .computing srlEncLines
  | .srlDec => .computing srlDecLines
  | .guardArm => .computing fun s => .ok (armLines s)
  | .guardCheck => .computing fun s => .ok (if expired s then [.didTimeout, .res 0 1] else [.res 0 0])
  | .timeoutOccurred => .computing fun _ => .ok [.takeTimeout]
  | .rd8 reg => .accessing (fun _ => none) (fun s => .read s.devAddr reg .one) fun _ v => [.res 0 v]
  | .rd8Cap reg =>
    .accessing (fun _ => none) (fun s => .read s.devAddr reg .one) fun _ v => [.res 0 v, .stopVar (v.setWidth 8), .stopValid]
  | .rd16 reg => .accessing (fun _ => none) (fun s => .read s.devAddr reg .two) fun _ v => [.res 0 v]
  | .rd32 reg => .accessing (fun _ => none) (fun s => .read s.devAddr reg .four) fun _ v => [.res 0 v]
  | .wr8 reg imm => .accessing (fun _ => none) (fun s => .write s.devAddr reg .one (zext imm)) fun r _ => shadowLines r
  | .wr8Sv reg =>
    .accessing (fun s => if s.stopValid then none else some .illegal) (fun s => .write s.devAddr reg .one (zext s.stopVar))
      fun r _ => shadowLines r
  | .wr16 reg =>
    .accessing (fun s => if fits s.arg.r0 16 then none else some .range) (fun s => .write s.devAddr reg .two s.arg.r0)
      fun _ _ => []
  | .wr32 reg => .accessing (fun _ => none) (fun s => .write s.devAddr reg .four s.arg.r0) fun _ _ => []
  | .pollNz reg mask => .polling reg fun v => v &&& zext mask != 0
  | .pollZ reg mask => .polling reg fun v => v &&& zext mask == 0
  | .seqRun => .replaying
  | .setAddr reg addr =>
    .accessing (fun _ => none) (fun s => .write s.devAddr reg .one (zext (addr &&& 0x7F))) fun _ _ => [.devAddr (addr.setWidth 7)]

theorem compute_eq_script (lines : State → Except ErrCode (List Line)) (s : State) :
    compute (lines s) s = (Script.computing lines).exec s := by
  simp only [compute, Script.exec, Script.computing]
  cases lines s <;> rfl

theorem poll_eq_script (reg : Byte) (hit : Word → Bool) (s : State) : poll reg hit s = (Script.polling reg hit).exec s := by
  have hreply : ∀ r v t, pollReply (hit v) v t = ((Script.polling reg hit).onOk r v t).run t := by
    intro r v t
    simp only [pollReply, Script.polling]
    split_ifs <;> rfl
  exact congrArg (turn s _ _) (funext fun r => funext fun v => funext (hreply r v))

theorem execWr8Sv_eq_script (reg : Byte) (s : State) : execWr8Sv reg s = (script (.wr8Sv reg)).exec s := by
  simp only [execWr8Sv, Script.exec, script, Script.accessing]
  cases s.stopValid <;> rfl

theorem execWr16_eq_script (reg : Byte) (s : State) : execWr16 reg s = (script (.wr16 reg)).exec s := by
  simp only [execWr16, Script.exec, script, Script.accessing]
  cases fits s.arg.r0 16 <;> rfl

theorem execSeqRun_eq_script (s : State) : execSeqRun s = (script .seqRun).exec s := by
  have hloop : seqLoop s = (Script.replaying.loop s).run s := by
    simp only [seqLoop, Script.replaying]
    cases s.tuning[s.seqPc.toNat]? <;> rfl
  simp only [execSeqRun, hloop]
  rfl

/-- Every command's turn is its script's. -/
theorem exec_eq_script (i : Instr) (s : State) : exec i s = (script i).exec s := by
  cases i with
  | pollNz reg mask => exact poll_eq_script reg _ s
  | pollZ reg mask => exact poll_eq_script reg _ s
  | wr8Sv reg => exact execWr8Sv_eq_script reg s
  | wr16 reg => exact execWr16_eq_script reg s
  | seqRun => exact execSeqRun_eq_script s
  | guardArm | guardCheck | timeoutOccurred => rfl
  | rd8 | rd8Cap | rd16 | rd32 | wr8 | wr32 | setAddr => rfl
  | _ => exact compute_eq_script _ s

end Sys2Proof.Machine
end

section
/-! PROOFS. What no turn of the engine touches, and what it does not see: the host's registers, the table, the tick and the sensor
(spec/10_state.md R21, R29, R42, R44, R47). -/

namespace Sys2Proof.Machine

open Sys2Proof

/-! ## Frame -/

/-- Everything one turn of any command can do, in any state: nothing, the TRANSPORT error, or one deed, a response perhaps taken first. -/
theorem exec_cases (i : Instr) (s : State) : ∃ t, exec i s = .next t ∧
    (t = s ∨ (∃ r, t = raiseTransport r { s with bus := .idle }) ∨ ∃ b d, t = Deed.run d { s with bus := b }) := by
  rw [exec_eq_script]
  obtain ⟨t, ht, ⟨-, rfl⟩ | ⟨cmd, -, rfl⟩ | ⟨cmd, -, rfl⟩ | ⟨cmd, -, rfl⟩ | ⟨cmd, ws, k, -, -, rfl⟩⟩ :=
    turn_cases s (((script i).start s).run s) (((script i).loop s).run s) fun r v t => ((script i).onOk r v t).run t
  · exact ⟨_, ht, .inl rfl⟩
  · exact ⟨_, ht, .inr (.inr ⟨s.bus, _, rfl⟩)⟩
  · refine ⟨_, ht, ?_⟩
    obtain ⟨-, e⟩ | ⟨r, v, -, e⟩ | ⟨r, -, e⟩ := awaitReply_cases (fun r v t => ((script i).onOk r v t).run t) s <;> rw [e]
    · exact .inl rfl
    · exact .inr (.inr ⟨.idle, _, rfl⟩)
    · exact .inr (.inl ⟨r, rfl⟩)
  · exact ⟨_, ht, .inr (.inr ⟨s.bus, _, rfl⟩)⟩
  · exact ⟨_, ht, .inr (.inr ⟨s.bus, .emit ws k, rfl⟩)⟩

/-- From `s` to `t` nothing changes of what only the other agents write. -/
structure SurroundingsKept (s t : State) : Prop where
  arg : t.arg = s.arg
  ioTimeout : t.ioTimeout = s.ioTimeout
  overrun : t.overrun = s.overrun
  tuning : t.tuning = s.tuning
  tick : t.tick = s.tick
  sensor : t.sensor = s.sensor
  sensorBank : t.sensorBank = s.sensorBank
  sensorAddr : t.sensorAddr = s.sensorAddr
  readData : t.readData = s.readData
  next : t.next = s.next
  draws : t.draws = s.draws

theorem emit_keeps_surroundings (ws : List Line) (k : After) (s : State) : SurroundingsKept s (emit ws k s) := by
  cases ws with
  | nil => cases k <;> constructor <;> simp
  | cons l ws => constructor <;> simp

theorem Deed.run_keeps_surroundings (d : Deed) (s : State) : SurroundingsKept s (d.run s) := by
  cases d with
  | stay => constructor <;> rfl
  | issue r => constructor <;> simp [Deed.run]
  | emit ws k => exact emit_keeps_surroundings ws k s
  | raise e => constructor <;> rfl

theorem exec_keeps_surroundings {i : Instr} {s t : State} (h : exec i s = .next t) : SurroundingsKept s t := by
  obtain ⟨u, hu, hcases⟩ := exec_cases i s
  obtain rfl : u = t := by simpa [hu] using h
  obtain rfl | ⟨r, rfl⟩ | ⟨b, d, rfl⟩ := hcases
  · constructor <;> rfl
  · constructor <;> rfl
  · obtain ⟨⟩ := Deed.run_keeps_surroundings d { s with bus := b }
    constructor <;> assumption

/-- Settles O11: a turn is at most one deed, and no deed touches the surroundings. -/
theorem commandsLeaveInputsAndSensorAlone : Obligations.CommandsLeaveInputsAndSensorAlone := by
  intro i s t h
  have kept := exec_keeps_surroundings h
  exact ⟨kept.arg, kept.ioTimeout, kept.overrun, kept.tuning, kept.tick, ⟨kept.sensor, kept.sensorBank, kept.sensorAddr⟩,
    fun a => by rw [kept.sensor], kept.readData, kept.next, kept.draws⟩

/-! ## Noninterference -/

@[simp] theorem complete_withSensor (e : ErrCode) (s u : State) : complete e (s.withSensor u) = (complete e s).withSensor u := rfl

@[simp] theorem setPos_withSensor (p : Pos) (s u : State) : setPos p (s.withSensor u) = (setPos p s).withSensor u := by
  cases he : s.engine <;> simp [setPos, State.withSensor, he]

@[simp] theorem Line.apply_withSensor (l : Line) (s u : State) : l.apply (s.withSensor u) = (l.apply s).withSensor u := by
  cases l <;> rfl

@[simp] theorem emit_withSensor (ws : List Line) (k : After) (s u : State) :
    emit ws k (s.withSensor u) = (emit ws k s).withSensor u := by
  cases ws with
  | nil => cases k <;> simp
  | cons l ws => simp

theorem Deed.run_withSensor (d : Deed) (s u : State) : d.run (s.withSensor u) = (d.run s).withSensor u := by
  cases d with
  | stay => rfl
  | issue r => exact setPos_withSensor .await { s with bus := .pending r .none } u
  | emit ws k => exact emit_withSensor ws k s u
  | raise e => rfl

/-- No command's deed depends on the sensor. -/
theorem script_withSensor (i : Instr) (s u : State) :
    (script i).start (s.withSensor u) = (script i).start s ∧ (script i).loop (s.withSensor u) = (script i).loop s ∧
    ∀ r v, (script i).onOk r v (s.withSensor u) = (script i).onOk r v s := by
  cases i <;> exact ⟨rfl, rfl, fun _ _ => rfl⟩

theorem awaitReply_withSensor {onOk : Request → Word → State → State}
    (honOk : ∀ r v s u, onOk r v (s.withSensor u) = (onOk r v s).withSensor u) (s u : State) :
    awaitReply onOk (s.withSensor u) = (awaitReply onOk s).withSensor u := by
  have hbus : (s.withSensor u).bus = s.bus := rfl
  rcases hb : s.bus with _ | ⟨r, p⟩ | ⟨r, v | _⟩ <;> simp only [awaitReply, hbus, hb]
  · exact honOk r v { s with bus := .idle } u
  · rfl

theorem turn_emit {s : State} {cmd : Word} {ws : List Line} {k : After} (start loop : State)
    (onOk : Request → Word → State → State) (h : s.engine = .running cmd (.lines ws k)) (hk : ws ≠ [] ∨ ∃ e, k = .finish e) :
    turn s start loop onOk = .next (emit ws k s) := by
  cases ws with
  | nil =>
    obtain hws | ⟨e, rfl⟩ := hk
    · exact absurd rfl hws
    · exact turn_finish _ _ _ h
  | cons l ws => exact turn_lines _ _ _ h

theorem turn_withSensor {onOk : Request → Word → State → State}
    (honOk : ∀ r v s u, onOk r v (s.withSensor u) = (onOk r v s).withSensor u) {s start loop t : State} (u : State)
    (h : turn s start loop onOk = .next t) :
    turn (s.withSensor u) (start.withSensor u) (loop.withSensor u) onOk = .next (t.withSensor u) := by
  obtain ⟨t', ht, hcases⟩ := turn_cases s start loop onOk
  obtain rfl : t' = t := by simpa [ht] using h
  obtain ⟨he, rfl⟩ | ⟨cmd, he, rfl⟩ | ⟨cmd, he, rfl⟩ | ⟨cmd, he, rfl⟩ | ⟨cmd, ws, k, he, hk, rfl⟩ := hcases
  · exact turn_idle (s := t'.withSensor u) _ _ _ he
  · exact turn_start (s := s.withSensor u) _ _ _ he
  · rw [turn_await (s := s.withSensor u) _ _ _ he, awaitReply_withSensor honOk]
  · exact turn_loop (s := s.withSensor u) _ _ _ he
  · rw [turn_emit (s := s.withSensor u) _ _ _ he hk, emit_withSensor]

theorem exec_withSensor {i : Instr} {s t : State} (u : State) (h : exec i s = .next t) :
    exec i (s.withSensor u) = .next (t.withSensor u) := by
  obtain ⟨hstart, hloop, -⟩ := script_withSensor i s u
  rw [exec_eq_script, Script.exec] at h ⊢
  rw [hstart, hloop, Deed.run_withSensor, Deed.run_withSensor]
  refine turn_withSensor (fun r v s u => ?_) u h
  obtain ⟨-, -, honOk⟩ := script_withSensor i s u
  rw [honOk, Deed.run_withSensor]

/-- Settles O13: every operation of the engine commutes with replacing the sensor. -/
theorem engineSeesTheSensorOnlyThroughResponses : Obligations.EngineSeesTheSensorOnlyThroughResponses :=
  fun _ s _ m b a h => exec_withSensor { s with sensor := m, sensorBank := b, sensorAddr := a } h

end Sys2Proof.Machine
end

section
/-! PROOFS. What a command's rule lets each of its deeds do (spec/40_timing_model.md to spec/43_config_arith.md, "State written"), and
from it everything a turn can do where the engine's invariant holds. -/

namespace Sys2Proof.Machine

open Sys2Proof

/-! ## The lines a command may write -/

theorem writes_iff (i : Instr) (l : Line) : i.writes l = true ↔ ∀ p ∈ l.places, p ∈ i.places := by
  simp [Instr.writes]

theorem eq_seqRun_of_writes_seqPc {i : Instr} {v : BitVec 16} (h : i.writes (.seqPc v) = true) : i = .seqRun := by
  have hmem : Place.seqPc ∈ i.places := (writes_iff i _).1 h _ (by simp [Line.places])
  cases i with
  | wr8 reg imm | wr8Sv reg => by_cases hr : reg = 0xFF#8 <;> simp [Instr.places, hr] at hmem
  | seqRun => rfl
  | _ => simp [Instr.places] at hmem

/-- What a computing command answers is lines of its own, or an error that is not the port's. -/
def ComputesAs (i : Instr) (result : Except ErrCode (List Line)) : Prop :=
  (∀ ws, result = .ok ws → ∀ l ∈ ws, i.writes l = true) ∧ result ≠ .error .transport

theorem computesAs_ok {i : Instr} {ws : List Line} (h : ∀ l ∈ ws, i.writes l = true) : ComputesAs i (.ok ws) :=
  ⟨fun _ e => by cases e; exact h, by simp⟩

theorem computesAs_error {i : Instr} {e : ErrCode} (h : e ≠ .transport) : ComputesAs i (.error e) :=
  ⟨by simp, by simpa using h⟩

/-- A check that raises an error, then the rest. -/
theorem computesAs_check {i : Instr} {c : Prop} [Decidable c] {e : ErrCode} {b : Except ErrCode (List Line)}
    (hb : ComputesAs i b) (he : e ≠ .transport := by decide) : ComputesAs i (if c then .error e else b) := by
  split_ifs
  · exact computesAs_error he
  · exact hb

/-- The commands that write RES0 alone (R127 to R131, R220 to R223, R227, R228). -/
theorem computesAs_res {i : Instr} (v : Word) (h : .res 0 ∈ i.places := by decide) : ComputesAs i (.ok [.res 0 v]) :=
  computesAs_ok (by simpa [writes_iff, Line.places] using h)

theorem stepTimeoutsLines_computesAs (bias : M2uBias) (bits : SeqBits) (s : State) :
    ComputesAs .stepTimeouts (stepTimeoutsLines bias bits s) :=
  computesAs_check (computesAs_ok (by simp [writes_iff, Line.places, Instr.places]))

theorem budgetGetLines_computesAs (bits : SeqBits) (s : State) : ComputesAs .budgetGet (budgetGetLines bits s) :=
  computesAs_check (computesAs_check (computesAs_ok (by simp [writes_iff, Line.places, Instr.places])))

theorem budgetAlloc_ne_transport (e : Enables) (finPclks msrcUs preUs preMclks budget : Nat) :
    budgetAlloc e finPclks msrcUs preUs preMclks budget ≠ .error .transport := by
  simp only [budgetAlloc]
  split_ifs <;> simp

theorem budgetSetLines_computesAs (bits : SeqBits) (s : State) : ComputesAs .budgetSet (budgetSetLines bits s) := by
  refine computesAs_check ?_
  rcases ha : budgetSetAlloc bits s with e | _ | ⟨regVal, mclks, us⟩ <;> dsimp only
  · exact computesAs_error fun he => budgetAlloc_ne_transport _ _ _ _ _ _ (he ▸ ha)
  · exact computesAs_ok (by simp [writes_iff, Line.places, Instr.places])
  · exact computesAs_ok (by simp [writes_iff, Line.places, Instr.places])

theorem srlEncLines_computesAs (s : State) : ComputesAs .srlEnc (srlEncLines s) := by
  unfold srlEncLines
  cases srlEnc s.arg.r0
  · exact computesAs_error (by decide)
  · exact computesAs_res _

/-- The shadow's lines belong to a command that writes register `reg` (R150). -/
theorem writes_of_mem_shadowLines {i : Instr} {dev : DevAddr} {reg : Byte} {n : Width} {v : Word} {l : Line}
    (hi : reg = 0xFF#8 → .bank ∈ i.places ∧ .bankValid ∈ i.places) (hl : l ∈ shadowLines (.write dev reg n v)) :
    i.writes l = true := by
  by_cases hr : reg = 0xFF#8
  · obtain rfl | rfl : l = .bank (v.setWidth 8) ∨ l = .bankValid := by simpa [shadowLines, hr] using hl
    · simpa [writes_iff, Line.places] using (hi hr).1
    · simpa [writes_iff, Line.places] using (hi hr).2
  · simp [shadowLines, hr] at hl

/-! ## The deeds a command may do -/

/-- What a command's rule lets a deed of its own do in state `s`: it stays only where the command has nothing to wait for, issues the
request it names, writes lines of its own before an end or a loop it has, or raises an error of its own. A new SEQ_PC is within the
table (R33). -/
def Deed.Allowed (i : Instr) (s : State) : Deed → Prop
  | .stay => i.request s = none
  | .issue r => i.request s = some r
  | .emit ws k => k ∈ i.afters ∧ (∀ l ∈ ws, i.writes l = true) ∧ ∀ v, Line.seqPc v ∈ ws → v.toNat ≤ s.tuning.length
  | .raise e => e ≠ .transport

/-- Only SEQ_RUN's lines need a word about SEQ_PC. -/
theorem Deed.allowed_emit {i : Instr} {s : State} {ws : List Line} {k : After} (hi : i ≠ .seqRun) (hk : k ∈ i.afters)
    (hws : ∀ l ∈ ws, i.writes l = true) : Deed.Allowed i s (.emit ws k) :=
  ⟨hk, hws, fun _ hv => absurd (eq_seqRun_of_writes_seqPc (hws _ hv)) hi⟩

/-- A script all of whose deeds are the command's: an Ok answer is to the request the command names. -/
structure Script.Allowed (i : Instr) (p : Script) : Prop where
  start : ∀ s, (p.start s).Allowed i s
  loop : ∀ s, .loop ∈ i.afters → (p.loop s).Allowed i s
  onOk : ∀ r v s, i.request s = some r → (p.onOk r v s).Allowed i s

theorem computing_allowed {i : Instr} {lines : State → Except ErrCode (List Line)} (h : ∀ s, ComputesAs i (lines s))
    (hi : i ≠ .seqRun := by simp) (hk : i.afters = [.finish .none] := by rfl) (hr : ∀ s, i.request s = none := by intro; rfl) :
    (Script.computing lines).Allowed i where
  start s := by
    obtain ⟨hok, herror⟩ := h s
    simp only [Script.computing]
    rcases hl : lines s with e | ws <;> dsimp only
    · simpa [Deed.Allowed, hl] using herror
    · exact Deed.allowed_emit hi (hk ▸ List.mem_cons_self) (hok ws hl)
  loop _ hloop := by simp [hk] at hloop
  onOk r v s hreq := by simp [hr] at hreq

theorem accessing_allowed {i : Instr} {refuse : State → Option ErrCode} {request : State → Request}
    {lines : Request → Word → List Line} (hrefuse : ∀ s, refuse s ≠ some .transport)
    (hlines : ∀ r v s, i.request s = some r → ∀ l ∈ lines r v, i.writes l = true)
    (hi : i ≠ .seqRun := by simp) (hk : i.afters = [.finish .none] := by rfl)
    (hr : ∀ s, i.request s = some (request s) := by intro; rfl) :
    (Script.accessing refuse request lines).Allowed i where
  start s := by
    simp only [Script.accessing]
    rcases hc : refuse s with _ | e <;> dsimp only
    · exact hr s
    · simpa [Deed.Allowed, hc] using hrefuse s
  loop _ hloop := by simp [hk] at hloop
  onOk r v s hreq := Deed.allowed_emit hi (by simp [hk]) (hlines r v s hreq)

theorem polling_allowed {i : Instr} {reg : Byte} (hit : Word → Bool) (hi : i ≠ .seqRun := by simp)
    (hk : i.afters = [.finish .none, .finish .timeout, .loop] := by rfl)
    (hp : i.places = [.deadline, .guardEn, .res 0, .timeoutSet] := by rfl)
    (hr : ∀ s, i.request s = some (.read s.devAddr reg .one) := by intro; rfl) :
    (Script.polling reg hit).Allowed i where
  start s := Deed.allowed_emit hi (by simp [hk]) (by simp [armLines, writes_iff, Line.places, hp])
  loop s _ := hr s
  onOk r v s _ := by
    unfold Script.polling
    dsimp only
    split_ifs
    · exact Deed.allowed_emit hi (by simp [hk]) (by simp [writes_iff, Line.places, hp])
    · exact Deed.allowed_emit hi (by simp [hk]) (by simp [writes_iff, Line.places, hp])
    · exact Deed.allowed_emit hi (by simp [hk]) (by simp)

/-- SEQ_PC counts on only from an entry that is there, so it stays within the table (R159, R33). -/
theorem replaying_allowed : Script.replaying.Allowed .seqRun where
  start s := ⟨by decide, by simp [writes_iff, Line.places, Instr.places], by simp⟩
  loop s _ := by
    simp only [Script.replaying]
    rcases ht : s.tuning[s.seqPc.toNat]? with _ | ⟨reg, b⟩ <;> dsimp only
    · exact ⟨by decide, by simp [writes_iff, Line.places, Instr.places], by simp⟩
    · simp [Deed.Allowed, Instr.request, ht]
  onOk r v s hreq := by
    obtain ⟨e, he, rfl⟩ : ∃ e, s.tuning[s.seqPc.toNat]? = some e ∧ Request.write s.devAddr e.1 .one (zext e.2) = r := by
      simpa [Instr.request] using hreq
    obtain ⟨hlt, -⟩ := List.getElem?_eq_some_iff.1 he
    refine ⟨by simp [Instr.afters], fun l hl => ?_, fun w hw => ?_⟩
    · obtain hl | rfl := by simpa using hl
      · exact writes_of_mem_shadowLines (fun _ => by simp [Instr.places]) hl
      · simp [writes_iff, Line.places, Instr.places]
    · obtain rfl : w = s.seqPc + 1 := by
        obtain hw | hw := by simpa using hw
        · simp only [shadowLines] at hw
          split at hw <;> simp at hw
        · exact hw
      have hadd : (s.seqPc + 1).toNat = (s.seqPc.toNat + 1) % 2 ^ 16 := BitVec.toNat_add s.seqPc 1
      omega

/-- Every command does only what its rule lets it do. -/
theorem script_allowed (i : Instr) : (script i).Allowed i := by
  cases i with
  | decTimeout => exact computing_allowed fun _ => computesAs_check (computesAs_check (computesAs_res _))
  | encTimeout => exact computing_allowed fun _ => computesAs_check (computesAs_res _)
  | macroPeriod => exact computing_allowed fun _ => computesAs_check (computesAs_res _)
  | mclkToUs => exact computing_allowed fun _ => computesAs_check (computesAs_check (computesAs_res _))
  | usToMclk => exact computing_allowed fun _ => computesAs_check (computesAs_check (computesAs_res _))
  | seqDecode => exact computing_allowed fun _ => computesAs_check (computesAs_res _)
  | vcselDec => exact computing_allowed fun _ => computesAs_check (computesAs_check (computesAs_res _))
  | vcselEncPre => exact computing_allowed fun _ => computesAs_check (computesAs_check (computesAs_res _))
  | vcselEncFinal => exact computing_allowed fun _ => computesAs_check (computesAs_check (computesAs_res _))
  | srlEnc => exact computing_allowed srlEncLines_computesAs
  | srlDec => exact computing_allowed fun _ => computesAs_check (computesAs_res _)
  | stepTimeouts => exact computing_allowed (stepTimeoutsLines_computesAs _ _)
  | budgetGet => exact computing_allowed (budgetGetLines_computesAs _)
  | budgetSet => exact computing_allowed (budgetSetLines_computesAs _)
  | guardArm => exact computing_allowed fun _ => computesAs_ok (by simp [armLines, writes_iff, Line.places, Instr.places])
  | guardCheck =>
    refine computing_allowed fun _ => computesAs_ok ?_
    split_ifs <;> simp [writes_iff, Line.places, Instr.places]
  | timeoutOccurred => exact computing_allowed fun _ => computesAs_ok (by simp [writes_iff, Line.places, Instr.places])
  | rd8 | rd8Cap | rd16 | rd32 | wr32 | setAddr =>
    unfold script
    exact accessing_allowed (by simp) (by simp [writes_iff, Line.places, Instr.places])
  | wr16 =>
    unfold script
    exact accessing_allowed (fun s => by split_ifs <;> simp) (by simp)
  | wr8 reg imm =>
    unfold script
    refine accessing_allowed (by simp) fun r v s hreq l hl => ?_
    obtain rfl : Request.write s.devAddr reg .one (zext imm) = r := by simpa [Instr.request] using hreq
    exact writes_of_mem_shadowLines (fun hr => by simp [Instr.places, hr]) hl
  | wr8Sv reg =>
    unfold script
    refine accessing_allowed (fun s => by split_ifs <;> simp) fun r v s hreq l hl => ?_
    obtain rfl : Request.write s.devAddr reg .one (zext s.stopVar) = r := by simpa [Instr.request] using hreq
    exact writes_of_mem_shadowLines (fun hr => by simp [Instr.places, hr]) hl
  | pollNz | pollZ => exact polling_allowed _
  | seqRun => exact replaying_allowed

/-! ## A turn where the invariant holds -/

theorem request_with_bus (i : Instr) (s : State) (b : Bus) : i.request { s with bus := b } = i.request s := by
  cases i <;> rfl

theorem Deed.allowed_with_bus {i : Instr} {s : State} {b : Bus} {d : Deed} :
    d.Allowed i { s with bus := b } ↔ d.Allowed i s := by
  cases d <;> simp [Deed.Allowed, request_with_bus]

/-- A turn that a running command may take: it waits, ends as TRANSPORT on a failed answer, or does a deed its rule allows, the port
then being idle but for the request it issues. -/
def AllowedTurn (i : Instr) (s t : State) : Prop :=
  t = s ∨ (∃ r, s.bus = .answered r .fail ∧ t = raiseTransport r { s with bus := .idle }) ∨
  ∃ d : Deed, d ≠ .stay ∧ d.Allowed i s ∧ t = d.run { s with bus := .idle }

theorem allowedTurn_of_deed {i : Instr} {s : State} {d : Deed} (hb : s.bus = .idle) (hallowed : d.Allowed i s) :
    AllowedTurn i s (d.run s) := by
  by_cases hstay : d = .stay
  · exact .inl (by rw [hstay]; rfl)
  · exact .inr (.inr ⟨d, hstay, hallowed, by rw [← hb]⟩)

/-- A command that waits for its own request, whether or not the answer has arrived. -/
theorem allowedTurn_of_await {i : Instr} {s : State} {r : Request} (hreq : i.request s = some r)
    (hbus : s.bus.request = some r) :
    AllowedTurn i s (awaitReply (fun r v t => ((script i).onOk r v t).run t) s) := by
  obtain ⟨-, e⟩ | ⟨r', v, hb, e⟩ | ⟨r', hb, e⟩ :=
    awaitReply_cases (fun r v t => ((script i).onOk r v t).run t) s <;> rw [e]
  · exact .inl rfl
  · obtain rfl : r' = r := by simpa [hb, Bus.request] using hbus
    have hreq' : i.request { s with bus := .idle } = some r' := by rw [request_with_bus, hreq]
    have hallowed := (script_allowed i).onOk r' v _ hreq'
    refine .inr (.inr ⟨_, fun hstay => ?_, Deed.allowed_with_bus.1 hallowed, rfl⟩)
    rw [hstay, Deed.Allowed, hreq'] at hallowed
    cases hallowed
  · exact .inr (.inl ⟨r', hb, rfl⟩)

/-- Where the engine's invariant holds, every turn of the running command is one that it may take. -/
theorem exec_allowedTurn {i : Instr} {s t : State} {cmd : Word} {pos : Pos} (hinv : EngineInv s)
    (he : s.engine = .running cmd pos) (hd : decode cmd = .ok i) (hx : exec i s = .next t) : AllowedTurn i s t := by
  obtain ⟨hcoherent, hseq⟩ := hinv
  simp only [EngineCoherent, SeqPcInTable, he] at hcoherent hseq
  obtain ⟨-, -, hpos⟩ := hcoherent
  rw [exec_eq_script, Script.exec] at hx
  cases pos with
  | start =>
    rw [turn_start _ _ _ he] at hx
    cases hx
    exact allowedTurn_of_deed hpos ((script_allowed i).start s)
  | await =>
    obtain ⟨i', r, hd', hreq, hbus⟩ := hpos
    obtain rfl : i' = i := by simpa [hd] using hd'.symm
    rw [turn_await _ _ _ he] at hx
    cases hx
    exact allowedTurn_of_await hreq hbus
  | lines ws k =>
    obtain ⟨hb, i', hd', hk, hws⟩ := hpos
    obtain rfl : i' = i := by simpa [hd] using hd'.symm
    obtain ⟨-, -, hpc⟩ := hseq
    by_cases hhead : ws = [] ∧ k = .loop
    · obtain ⟨rfl, rfl⟩ := hhead
      rw [turn_loop _ _ _ he] at hx
      cases hx
      exact allowedTurn_of_deed hb ((script_allowed i').loop s hk)
    · have hleft : ws ≠ [] ∨ ∃ e, k = .finish e := by
        cases k with
        | finish e => exact .inr ⟨e, rfl⟩
        | loop => exact .inl fun hws => hhead ⟨hws, rfl⟩
      rw [turn_emit _ _ _ he hleft] at hx
      cases hx
      exact allowedTurn_of_deed (d := .emit ws k) hb ⟨hk, hws, hpc⟩

end Sys2Proof.Machine
end

section
/-! PROOFS. The engine's invariant along a run: what block reset leaves, and what each agent's step keeps (spec/10_state.md R26, R27,
R33, R40, R45, spec/20_memory.md R71, R74, spec/41_sequencer.md R159). -/

namespace Sys2Proof.Machine

open Sys2Proof

/-! ## The engine's own turn -/

theorem engineInv_of_idle {s : State} (he : s.engine = .idle) (hb : s.bus = .idle) (hlen : s.tuning.length ≤ 65535)
    (hpc : s.seqPc.toNat ≤ s.tuning.length) : EngineInv s := by
  simp [EngineInv, EngineCoherent, SeqPcInTable, he, hb, hlen, hpc]

theorem engineInv_idle_bus {s : State} (h : EngineInv s) (he : s.engine = .idle) : s.bus = .idle := by
  simpa [EngineCoherent, he] using h.1

theorem engineInv_tuning {s : State} (h : EngineInv s) : s.tuning.length ≤ 65535 ∧ s.seqPc.toNat ≤ s.tuning.length :=
  ⟨h.2.1, h.2.2.1⟩

/-- A word that does not decode has not got past its start. -/
theorem bus_idle_of_illegal {s : State} {cmd : Word} {pos : Pos} {e : Illegal} (hinv : EngineInv s)
    (he : s.engine = .running cmd pos) (hd : decode cmd = .error e) : s.bus = .idle := by
  have hcoherent := hinv.1
  simp only [EngineCoherent, he] at hcoherent
  obtain ⟨-, -, hpos⟩ := hcoherent
  cases pos with
  | start => exact hpos
  | await =>
    obtain ⟨i, -, hok, -⟩ := hpos
    simp [hd] at hok
  | lines ws k => exact hpos.1

/-- The engine runs command `i` with the port free, and all the invariant says is so. -/
structure AtWork (i : Instr) (s : State) : Prop where
  running : ∃ cmd pos, s.engine = .running cmd pos ∧ decode cmd = .ok i
  bus : s.bus = .idle
  done : s.done = false
  err : s.err = .none
  table : s.tuning.length ≤ 65535
  seqPc : s.seqPc.toNat ≤ s.tuning.length

theorem atWork_of_engineInv {i : Instr} {s : State} {cmd : Word} {pos : Pos} (hinv : EngineInv s)
    (he : s.engine = .running cmd pos) (hd : decode cmd = .ok i) : AtWork i { s with bus := .idle } := by
  obtain ⟨hlen, hpc⟩ := engineInv_tuning hinv
  have hcoherent := hinv.1
  simp only [EngineCoherent, he] at hcoherent
  obtain ⟨hdone, herr, -⟩ := hcoherent
  exact ⟨⟨cmd, pos, he, hd⟩, rfl, hdone, herr, hlen, hpc⟩

/-- Ending a command keeps the invariant, whatever error it ends with. -/
theorem complete_engineInv {i : Instr} {s : State} (e : ErrCode) (h : AtWork i s) : EngineInv (complete e s) :=
  engineInv_of_idle rfl h.bus h.table h.seqPc

theorem issue_engineInv {i : Instr} {s : State} {r : Request} (h : AtWork i s) (hr : i.request s = some r) :
    EngineInv (issue r s) := by
  obtain ⟨cmd, pos, he, hd⟩ := h.running
  have hissue : issue r s = { s with bus := .pending r .none, engine := .running cmd .await } :=
    setPos_of_running (s := { s with bus := .pending r .none }) .await he
  have hreq : i.request { s with bus := .pending r .none, engine := .running cmd .await } = some r := by
    rw [← hr]
    cases i <;> rfl
  rw [hissue]
  exact ⟨⟨h.done, h.err, i, r, hd, hreq, rfl⟩, h.table, h.seqPc, trivial⟩

theorem Line.apply_seqPc_le {l : Line} {s : State} {n : Nat} (hpc : s.seqPc.toNat ≤ n)
    (hl : ∀ v, l = .seqPc v → v.toNat ≤ n) : (l.apply s).seqPc.toNat ≤ n := by
  cases l with
  | seqPc v => exact hl v rfl
  | _ => exact hpc

/-- The engine's standing before lines of its command keeps the invariant. -/
theorem setPos_lines_engineInv {i : Instr} {s : State} {ws : List Line} {k : After} (h : AtWork i s) (hk : k ∈ i.afters)
    (hws : ∀ l ∈ ws, i.writes l = true) (hpcs : ∀ v, Line.seqPc v ∈ ws → v.toNat ≤ s.tuning.length) :
    EngineInv (setPos (.lines ws k) s) := by
  obtain ⟨cmd, pos, he, hd⟩ := h.running
  rw [setPos_of_running _ he]
  exact ⟨⟨h.done, h.err, h.bus, i, hd, hk, hws⟩, h.table, h.seqPc, hpcs⟩

theorem emit_engineInv {i : Instr} {s : State} {ws : List Line} {k : After} (h : AtWork i s) (hk : k ∈ i.afters)
    (hws : ∀ l ∈ ws, i.writes l = true) (hpcs : ∀ v, Line.seqPc v ∈ ws → v.toNat ≤ s.tuning.length) :
    EngineInv (emit ws k s) := by
  cases ws with
  | nil =>
    cases k with
    | finish e => exact complete_engineInv e h
    | loop => exact setPos_lines_engineInv h hk hws hpcs
  | cons l ws =>
    rw [emit_cons]
    have hl : AtWork i (l.apply s) := by
      refine ⟨?_, ?_, ?_, ?_, ?_, ?_⟩ <;> simp only [Line.apply_engine, Line.apply_bus, Line.apply_done, Line.apply_err, Line.apply_tuning]
      · exact h.running
      · exact h.bus
      · exact h.done
      · exact h.err
      · exact h.table
      · exact Line.apply_seqPc_le h.seqPc fun v hv => hpcs v (by simp [hv])
    refine setPos_lines_engineInv hl hk (fun l' hl' => hws l' (List.mem_cons_of_mem _ hl')) fun v hv => ?_
    rw [Line.apply_tuning]
    exact hpcs v (List.mem_cons_of_mem _ hv)

/-- Every deed that the command's rule allows keeps the invariant. -/
theorem Deed.run_engineInv {i : Instr} {s : State} {d : Deed} (h : AtWork i s) (hstay : d ≠ .stay) (hallowed : d.Allowed i s) :
    EngineInv (d.run s) := by
  cases d with
  | stay => exact absurd rfl hstay
  | issue r => exact issue_engineInv h hallowed
  | raise e => exact complete_engineInv e h
  | emit ws k =>
    obtain ⟨hk, hws, hpcs⟩ := hallowed
    exact emit_engineInv h hk hws hpcs

theorem engineTurn_engineInv {s t : State} (hinv : EngineInv s) (h : engineTurn s = .next t) : EngineInv t := by
  rcases he : s.engine with _ | ⟨cmd, pos⟩
  · rw [engineTurn_idle he] at h
    cases h
    exact hinv
  rcases hd : decode cmd with e | i
  · rw [engineTurn_illegal he hd] at h
    cases h
    obtain ⟨hlen, hpc⟩ := engineInv_tuning hinv
    have hb := bus_idle_of_illegal hinv he hd
    exact engineInv_of_idle rfl hb hlen hpc
  · rw [engineTurn_ok he hd] at h
    have hwork := atWork_of_engineInv hinv he hd
    obtain rfl | ⟨r, -, rfl⟩ | ⟨d, hstay, hallowed, rfl⟩ := exec_allowedTurn hinv he hd h
    · exact hinv
    · exact engineInv_of_idle rfl rfl hwork.table hwork.seqPc
    · exact Deed.run_engineInv hwork hstay (Deed.allowed_with_bus.2 hallowed)

/-! ## The other agents' steps -/

/-- The transport moves a request's answer along, but the request stays the same. -/
theorem transportAnswers_request (a : Answer) (s : State) : (transportAnswers a s).bus.request = s.bus.request := by
  rcases hb : s.bus with _ | ⟨_ | _, p⟩ | _ <;> cases a <;> simp [transportAnswers, hb, Bus.request]

theorem transfersByte_request (k : Nat) (free : Byte) (s : State) : (transfersByte k free s).bus.request = s.bus.request := by
  rcases hb : s.bus with _ | ⟨_ | _, p⟩ | _ <;> simp only [transfersByte, hb] <;> split_ifs <;> simp [hb, Bus.request]

theorem bus_request_eq_none {b : Bus} : b.request = none ↔ b = .idle := by
  cases b <;> simp [Bus.request]

/-- The invariant looks at the port's request only, and not at the sensor. -/
theorem engineInv_withSensor_bus {s u : State} {b : Bus} (hb : b.request = s.bus.request) (h : EngineInv s) :
    EngineInv { s.withSensor u with bus := b } := by
  have hidle : s.bus = .idle → b = .idle := fun hs => bus_request_eq_none.1 (hb.trans (bus_request_eq_none.2 hs))
  obtain ⟨hcoherent, hseq⟩ := h
  refine ⟨?_, hseq⟩
  rcases he : s.engine with _ | ⟨cmd, _ | _ | ⟨ws, k⟩⟩ <;>
    simp only [EngineCoherent, State.withSensor, he] at hcoherent ⊢
  · exact hidle hcoherent
  · obtain ⟨hdone, herr, hbus⟩ := hcoherent
    exact ⟨hdone, herr, hidle hbus⟩
  · obtain ⟨hdone, herr, i, r, hd, hreq, hbus⟩ := hcoherent
    refine ⟨hdone, herr, i, r, hd, ?_, hb.trans hbus⟩
    rw [← hreq]
    cases i <;> rfl
  · obtain ⟨hdone, herr, hbus, hlines⟩ := hcoherent
    exact ⟨hdone, herr, hidle hbus, hlines⟩

theorem csrWrite_engineInv {s : State} (c : Csr) (w : Word) (h : EngineInv s) : EngineInv (c.write w s) := by
  obtain ⟨hlen, hpc⟩ := engineInv_tuning h
  obtain e | ⟨v, e⟩ | ⟨he, hidle⟩ := csrWrite_cases c w s
  · rwa [e]
  · rw [e]
    exact h
  · have hb := engineInv_idle_bus h he
    obtain e | ⟨f, e⟩ | e | e | e := hidle <;> rw [e]
    · exact ⟨⟨rfl, rfl, hb⟩, hlen, hpc, trivial⟩
    all_goals exact engineInv_of_idle he hb hlen hpc

theorem hostAccess_engineInv {s t : State} {a : Access} (hinv : EngineInv s) (h : hostAccess a s = .next t) : EngineInv t := by
  obtain ⟨-, e⟩ | ⟨-, -, -, e⟩ | ⟨-, -, -, ⟨-, e⟩ | ⟨w, -, e⟩⟩ := hostAccess_cases a s <;> rw [e] at h <;> cases h
  · exact hinv
  · exact csrWrite_engineInv _ w hinv

theorem perform_engineInv {e : Event} {s t : State} (hinv : EngineInv s) (h : perform e s = .next t) : EngineInv t := by
  cases e with
  | engine => exact engineTurn_engineInv hinv h
  | host a => exact hostAccess_engineInv hinv h
  | transport a =>
    cases h
    rw [transportAnswers_frame]
    exact engineInv_withSensor_bus (transportAnswers_request a s) hinv
  | wire k free =>
    cases h
    rw [transfersByte_frame]
    exact engineInv_withSensor_bus (transfersByte_request k free s) hinv
  | tick k =>
    cases h
    exact hinv
  | sensor bank reg v =>
    cases h
    unfold sensorChanges
    split_ifs <;> exact hinv
  | reset took k =>
    cases h
    exact engineInv_of_idle rfl rfl (engineInv_tuning hinv).1 (Nat.zero_le _)

/-- A step that goes on performs its event and draws the next one. -/
theorem step_next {s t : State} (h : step s = .next t) : ∃ u, perform s.next s = .next u ∧ t = drawNext u := by
  unfold step at h
  cases hp : perform s.next s with
  | next u =>
    rw [hp] at h
    cases h
    exact ⟨u, rfl, rfl⟩
  | fault f => simp [thenDraw, hp] at h
  | refused r => simp [thenDraw, hp] at h

/-! ## The statements -/

/-- Settles O15: each agent's event keeps the invariant, and drawing the next event does not touch what it speaks of. -/
theorem everyStepKeepsTheEngineInv : Obligations.EveryStepKeepsTheEngineInv := by
  intro s t hinv h
  obtain ⟨u, hu, rfl⟩ := step_next h
  have hkept : EngineInv u := perform_engineInv hinv hu
  exact hkept

/-- Settles O14: nothing runs after reset, and the tuning table has at most 65535 entries. -/
theorem engineInvAtReset : Obligations.EngineInvAtReset :=
  engineInv_of_idle rfl rfl (List.length_take_le _ _) (Nat.zero_le _)

/-- Settles O16: BANK_VALID is 0 after reset, so BANK claims nothing. -/
theorem shadowInvAtReset : Obligations.ShadowInvAtReset :=
  fun hvalid : State.reset.bankValid = true => Bool.noConfusion hvalid

end Sys2Proof.Machine
end

section
/-! PROOFS. Which command may change which register (spec/10_state.md R21, R22, R30 to R33, R35, R36, R38, R39, spec/60_exceptions.md
R253). -/

namespace Sys2Proof.Machine

open Sys2Proof

/-! ## What survives a turn -/

/-- Only a line of kind `L` can end `Q`; moving the engine, using the port and showing another status cannot. -/
structure EndedOnlyBy (L : Line → Prop) (Q : State → Prop) : Prop where
  frame : ∀ s e b d c, Q s → Q { s with engine := e, bus := b, done := d, err := c }
  line : ∀ l s, ¬ L l → Q s → Q (l.apply s)

theorem EndedOnlyBy.setPos {L : Line → Prop} {Q : State → Prop} (hQ : EndedOnlyBy L Q) {s : State} (p : Pos) (h : Q s) :
    Q (setPos p s) := by
  rcases he : s.engine with _ | ⟨cmd, q⟩
  · simpa [Machine.setPos, he] using h
  · rw [setPos_of_running _ he]
    exact hQ.frame s _ s.bus s.done s.err h

/-- A deed keeps `Q`, or its first line is of the kind that may end it. -/
theorem EndedOnlyBy.run {L : Line → Prop} {Q : State → Prop} (hQ : EndedOnlyBy L Q) {s : State} (d : Deed) (h : Q s) :
    Q (d.run s) ∨ ∃ ws k, d = .emit ws k ∧ ∃ l ∈ ws, L l := by
  cases d with
  | stay => exact .inl h
  | issue r => exact .inl (hQ.setPos _ (hQ.frame s s.engine _ s.done s.err h))
  | raise e => exact .inl (hQ.frame s _ s.bus _ _ h)
  | emit ws k =>
    cases ws with
    | nil =>
      cases k with
      | finish e => exact .inl (hQ.frame s _ s.bus _ _ h)
      | loop => exact .inl (hQ.setPos _ h)
    | cons l ws =>
      by_cases hl : L l
      · exact .inr ⟨_, _, rfl, l, List.mem_cons_self, hl⟩
      · rw [Deed.run, emit_cons]
        exact .inl (hQ.setPos _ (hQ.line l s hl h))

/-- `t` follows `s`, in which the invariant holds, by a turn of the running command `i`. -/
def TurnOf (i : Instr) (s t : State) : Prop :=
  EngineInv s ∧ exec i s = .next t ∧ ∃ cmd pos, s.engine = .running cmd pos ∧ decode cmd = .ok i

/-- A turn keeps `Q`, unless the command may write a line of the kind that ends it, or a request has failed. -/
theorem TurnOf.keeps {i : Instr} {s t : State} {L : Line → Prop} {Q : State → Prop} (hturn : TurnOf i s t)
    (hQ : EndedOnlyBy L Q) (h : Q s) :
    Q t ∨ (∃ l, i.writes l = true ∧ L l) ∨ ∃ r, s.bus = .answered r .fail ∧ t = raiseTransport r { s with bus := .idle } := by
  obtain ⟨hinv, hx, cmd, pos, he, hd⟩ := hturn
  have hfree : Q { s with bus := .idle } := hQ.frame s s.engine .idle s.done s.err h
  obtain rfl | hfail | ⟨d, -, hallowed, rfl⟩ := exec_allowedTurn hinv he hd hx
  · exact .inl h
  · exact .inr (.inr hfail)
  · obtain hkept | ⟨ws, k, rfl, l, hl, hL⟩ := hQ.run d hfree
    · exact .inl hkept
    · obtain ⟨-, hws, -⟩ := hallowed
      exact .inr (.inl ⟨l, hws l hl, hL⟩)

/-- `x` is changed only by lines that write place `p`. -/
def StoredAt {α : Type} (p : Place) (x : State → α) : Prop := ∀ v, EndedOnlyBy (fun l => p ∈ l.places) fun s => x s = v

theorem storedAt_of_line {α : Type} {p : Place} {x : State → α}
    (hframe : ∀ s e b d c, x { s with engine := e, bus := b, done := d, err := c } = x s)
    (hline : ∀ (l : Line) s, p ∉ l.places → x (l.apply s) = x s) : StoredAt p x :=
  fun _ => ⟨fun s e b d c h => (hframe s e b d c).trans h, fun l s hl h => (hline l s hl).trans h⟩

/-- A register that a turn changes is one that the command's rule writes, or one of the two that a failed request clears. -/
theorem TurnOf.place_of_changed {α : Type} {i : Instr} {s t : State} {p : Place} {x : State → α} (hturn : TurnOf i s t)
    (hx : StoredAt p x) (hraise : ∀ r u, x (raiseTransport r u) = x u) (hne : x t ≠ x s) : p ∈ i.places := by
  obtain h | ⟨l, hw, hl⟩ | ⟨r, -, rfl⟩ := hturn.keeps (hx (x s)) rfl
  · exact absurd h hne
  · exact (writes_iff i l).1 hw p hl
  · exact absurd ((hraise r _).trans ((hx (x s)).frame s s.engine .idle s.done s.err rfl)) hne

/-! ## Where the registers are stored -/

theorem budgetUs_storedAt : StoredAt .budget State.budgetUs :=
  storedAt_of_line (fun _ _ _ _ _ => rfl) fun l s hl => by
    cases l with
    | budget v => simp [Line.places] at hl
    | _ => rfl

theorem stopVar_storedAt : StoredAt .stopVar State.stopVar :=
  storedAt_of_line (fun _ _ _ _ _ => rfl) fun l s hl => by
    cases l with
    | stopVar b => simp [Line.places] at hl
    | _ => rfl

theorem stopValid_storedAt : StoredAt .stopValid State.stopValid :=
  storedAt_of_line (fun _ _ _ _ _ => rfl) fun l s hl => by
    cases l with
    | stopValid => simp [Line.places] at hl
    | _ => rfl

theorem bank_storedAt : StoredAt .bank State.bank :=
  storedAt_of_line (fun _ _ _ _ _ => rfl) fun l s hl => by
    cases l with
    | bank b => simp [Line.places] at hl
    | _ => rfl

theorem bankValid_storedAt : StoredAt .bankValid State.bankValid :=
  storedAt_of_line (fun _ _ _ _ _ => rfl) fun l s hl => by
    cases l with
    | bankValid => simp [Line.places] at hl
    | _ => rfl

theorem cfgValid_storedAt : StoredAt .cfgValid State.cfgValid :=
  storedAt_of_line (fun _ _ _ _ _ => rfl) fun l s hl => by
    cases l with
    | cfgValid v => simp [Line.places] at hl
    | _ => rfl

theorem seqPc_storedAt : StoredAt .seqPc State.seqPc :=
  storedAt_of_line (fun _ _ _ _ _ => rfl) fun l s hl => by
    cases l with
    | seqPc v => simp [Line.places] at hl
    | _ => rfl

theorem devAddr_storedAt : StoredAt .devAddr State.devAddr :=
  storedAt_of_line (fun _ _ _ _ _ => rfl) fun l s hl => by
    cases l with
    | devAddr a => simp [Line.places] at hl
    | _ => rfl

theorem deadline_storedAt : StoredAt .deadline State.deadline :=
  storedAt_of_line (fun _ _ _ _ _ => rfl) fun l s hl => by
    cases l with
    | deadline t => simp [Line.places] at hl
    | _ => rfl

theorem guardEn_storedAt : StoredAt .guardEn State.guardEn :=
  storedAt_of_line (fun _ _ _ _ _ => rfl) fun l s hl => by
    cases l with
    | guardEn v => simp [Line.places] at hl
    | _ => rfl

theorem res_storedAt (j : Fin 6) : StoredAt (.res j) fun s => s.res.get j :=
  storedAt_of_line (fun _ _ _ _ _ => rfl) fun l s hl => by
    cases l with
    | res k v => exact RegFile.get_set_other _ _ _ _ (by simpa [Line.places] using hl)
    | allRes f => fin_cases j <;> simp [Line.places] at hl
    | takeTimeout => exact RegFile.get_set_other _ _ _ _ (by simpa [Line.places] using hl)
    | _ => rfl

/-- No line clears BANK_VALID: only a failed request does (R253). -/
theorem bankValid_set_endedOnlyBy : EndedOnlyBy (fun _ => False) fun s => s.bankValid = true where
  frame _ _ _ _ _ h := h
  line l s _ h := by
    cases l with
    | bankValid => rfl
    | _ => exact h

theorem didTimeout_set_endedOnlyBy : EndedOnlyBy (fun l => .timeoutTaken ∈ l.places) fun s => s.didTimeout = true where
  frame _ _ _ _ _ h := h
  line l s hl h := by
    cases l with
    | takeTimeout => simp [Line.places] at hl
    | didTimeout => rfl
    | _ => exact h

theorem didTimeout_clear_endedOnlyBy : EndedOnlyBy (fun l => .timeoutSet ∈ l.places) fun s => s.didTimeout = false where
  frame _ _ _ _ _ h := h
  line l s hl h := by
    cases l with
    | didTimeout => simp [Line.places] at hl
    | takeTimeout => rfl
    | _ => exact h

/-! ## The commands that write a place -/

theorem budget_mem_places {i : Instr} (h : .budget ∈ i.places) : i = .budgetGet ∨ i = .budgetSet := by
  cases i <;> simp [Instr.places] at h ⊢

theorem stopVar_mem_places {i : Instr} (h : .stopVar ∈ i.places ∨ .stopValid ∈ i.places) : ∃ reg, i = .rd8Cap reg := by
  cases i <;> simp [Instr.places] at h ⊢

theorem devAddr_mem_places {i : Instr} (h : .devAddr ∈ i.places) : ∃ reg a, i = .setAddr reg a := by
  cases i <;> simp [Instr.places] at h ⊢

theorem seqPc_mem_places {i : Instr} (h : .seqPc ∈ i.places ∨ .cfgValid ∈ i.places) : i = .seqRun := by
  cases i <;> simp [Instr.places] at h ⊢

theorem bank_mem_places {i : Instr} (h : .bank ∈ i.places ∨ .bankValid ∈ i.places) :
    (∃ b, i = .wr8 0xFF b) ∨ i = .wr8Sv 0xFF ∨ i = .seqRun := by
  cases i <;> simp [Instr.places] at h ⊢
  all_goals exact h

theorem res0_mem_places {i : Instr} (h : .res 0 ∈ i.places) :
    i ≠ .guardArm ∧ (∀ reg b, i ≠ .wr8 reg b) ∧ (∀ reg, i ≠ .wr8Sv reg) ∧ (∀ reg, i ≠ .wr16 reg) ∧
      (∀ reg, i ≠ .wr32 reg) ∧ ∀ reg a, i ≠ .setAddr reg a := by
  cases i <;> simp [Instr.places] at h ⊢

theorem res123_mem_places {i : Instr} (h : .res 1 ∈ i.places ∨ .res 2 ∈ i.places ∨ .res 3 ∈ i.places) :
    i = .stepTimeouts ∨ i = .budgetSet := by
  cases i <;> simp [Instr.places] at h ⊢

theorem res45_mem_places {i : Instr} (h : .res 4 ∈ i.places ∨ .res 5 ∈ i.places) : i = .stepTimeouts := by
  cases i <;> simp [Instr.places] at h ⊢

theorem deadline_mem_places {i : Instr} (h : .deadline ∈ i.places ∨ .guardEn ∈ i.places) :
    i = .guardArm ∨ (∃ reg m, i = .pollNz reg m) ∨ (∃ reg m, i = .pollZ reg m) := by
  cases i <;> simp [Instr.places] at h ⊢

theorem timeoutSet_mem_places {i : Instr} (h : .timeoutSet ∈ i.places) :
    i = .guardCheck ∨ (∃ reg m, i = .pollNz reg m) ∨ (∃ reg m, i = .pollZ reg m) := by
  cases i <;> simp [Instr.places] at h ⊢

theorem timeoutTaken_mem_places {i : Instr} (h : .timeoutTaken ∈ i.places) : i = .timeoutOccurred := by
  cases i <;> simp [Instr.places] at h ⊢

/-! ## The statement -/

theorem TurnOf.bankValid_set {i : Instr} {s t : State} (hturn : TurnOf i s t) (h : t.bankValid = true) :
    s.bankValid = true ∨ (∃ b, i = .wr8 0xFF b) ∨ i = .wr8Sv 0xFF ∨ i = .seqRun := by
  rcases hs : s.bankValid
  · obtain hkept | ⟨l, hw, hl⟩ | ⟨r, -, rfl⟩ := hturn.keeps (bankValid_storedAt false) hs
    · simp [h] at hkept
    · exact .inr (bank_mem_places (.inr ((writes_iff i l).1 hw _ hl)))
    · simp [hs] at h
  · exact .inl rfl

theorem TurnOf.bankValid_cleared {i : Instr} {s t : State} (hturn : TurnOf i s t) (h : t.bankValid = false) :
    s.bankValid = false ∨ ∃ d n v, s.bus = .answered (.write d 0xFF n v) .fail := by
  rcases hs : s.bankValid
  · exact .inl rfl
  · obtain hkept | ⟨-, -, hl⟩ | ⟨r, hb, rfl⟩ := hturn.keeps bankValid_set_endedOnlyBy hs
    · simp [h] at hkept
    · exact hl.elim
    · cases r with
      | read dev reg n => simp [hs, Request.writesBank] at h
      | write dev reg n v =>
        obtain rfl : reg = 0xFF#8 := by simpa [hs, Request.writesBank] using h
        exact .inr ⟨dev, n, v, hb⟩

theorem TurnOf.cfgValid_set {i : Instr} {s t : State} (hturn : TurnOf i s t) (h : t.cfgValid = true) :
    s.cfgValid = true ∨ i = .seqRun := by
  rcases hs : s.cfgValid
  · obtain hkept | ⟨l, hw, hl⟩ | ⟨r, -, rfl⟩ := hturn.keeps (cfgValid_storedAt false) hs
    · simp [h] at hkept
    · exact .inr (seqPc_mem_places (.inr ((writes_iff i l).1 hw _ hl)))
    · simp at h
  · exact .inl rfl

theorem TurnOf.cfgValid_cleared {i : Instr} {s t : State} (hturn : TurnOf i s t) (h : t.cfgValid = false) :
    s.cfgValid = false ∨ i = .seqRun ∨ ∃ r, s.bus = .answered r .fail := by
  rcases hs : s.cfgValid
  · exact .inl rfl
  · obtain hkept | ⟨l, hw, hl⟩ | ⟨r, hb, rfl⟩ := hturn.keeps (cfgValid_storedAt true) hs
    · simp [h] at hkept
    · exact .inr (.inl (seqPc_mem_places (.inr ((writes_iff i l).1 hw _ hl))))
    · exact .inr (.inr ⟨r, hb⟩)

theorem TurnOf.didTimeout_set {i : Instr} {s t : State} (hturn : TurnOf i s t) (h : t.didTimeout = true) :
    s.didTimeout = true ∨ i = .guardCheck ∨ (∃ reg m, i = .pollNz reg m) ∨ (∃ reg m, i = .pollZ reg m) := by
  rcases hs : s.didTimeout
  · obtain hkept | ⟨l, hw, hl⟩ | ⟨r, -, rfl⟩ := hturn.keeps didTimeout_clear_endedOnlyBy hs
    · simp [h] at hkept
    · exact .inr (timeoutSet_mem_places ((writes_iff i l).1 hw _ hl))
    · simp [hs] at h
  · exact .inl rfl

theorem TurnOf.didTimeout_cleared {i : Instr} {s t : State} (hturn : TurnOf i s t) (h : t.didTimeout = false) :
    s.didTimeout = false ∨ i = .timeoutOccurred := by
  rcases hs : s.didTimeout
  · exact .inl rfl
  · obtain hkept | ⟨l, hw, hl⟩ | ⟨r, -, rfl⟩ := hturn.keeps didTimeout_set_endedOnlyBy hs
    · simp [h] at hkept
    · exact .inr (timeoutTaken_mem_places ((writes_iff i l).1 hw _ hl))
    · simp [hs] at h

/-- Settles O12: a register changes only where a line writes its place, and only some commands have such lines. -/
theorem eachRegisterHasItsWriters : Obligations.EachRegisterHasItsWriters := by
  intro i s t cmd pos hinv he hd hx
  have hturn : TurnOf i s t := ⟨hinv, hx, cmd, pos, he, hd⟩
  have hres (j : Fin 6) : t.res.get j ≠ s.res.get j → .res j ∈ i.places :=
    hturn.place_of_changed (res_storedAt j) fun _ _ => rfl
  refine ⟨?budgetUs, ?stop, ?devAddr, ?seqPc, ?bank, hturn.bankValid_set, hturn.bankValid_cleared, hturn.cfgValid_set,
    hturn.cfgValid_cleared, ?res0, ?res123, ?res45, ?guard, hturn.didTimeout_set, hturn.didTimeout_cleared⟩
  case budgetUs => exact fun h => budget_mem_places (hturn.place_of_changed budgetUs_storedAt (fun _ _ => rfl) h)
  case stop =>
    exact fun h => stopVar_mem_places (h.imp (hturn.place_of_changed stopVar_storedAt fun _ _ => rfl)
      (hturn.place_of_changed stopValid_storedAt fun _ _ => rfl))
  case devAddr => exact fun h => devAddr_mem_places (hturn.place_of_changed devAddr_storedAt (fun _ _ => rfl) h)
  case seqPc => exact fun h => seqPc_mem_places (.inl (hturn.place_of_changed seqPc_storedAt (fun _ _ => rfl) h))
  case bank => exact fun h => bank_mem_places (.inl (hturn.place_of_changed bank_storedAt (fun _ _ => rfl) h))
  case res0 => exact fun h => res0_mem_places (hres 0 h)
  case res123 => exact fun h => res123_mem_places (h.imp (hres 1) (Or.imp (hres 2) (hres 3)))
  case res45 => exact fun h => res45_mem_places (h.imp (hres 4) (hres 5))
  case guard =>
    exact fun h => deadline_mem_places (h.imp (hturn.place_of_changed deadline_storedAt fun _ _ => rfl)
      (hturn.place_of_changed guardEn_storedAt fun _ _ => rfl))

end Sys2Proof.Machine
end

section
/-! PROOFS. The guard's registers along a run: the sticky flag (spec/10_state.md R38, spec/42_guard.md R186) and DEADLINE (R30). -/

namespace Sys2Proof.Machine

open Sys2Proof

theorem csrWrite_keeps_guard (c : Csr) (w : Word) (s : State) :
    (c.write w s).deadline = s.deadline ∧ (c.write w s).didTimeout = s.didTimeout := by
  obtain e | ⟨v, e⟩ | ⟨-, e | ⟨f, e⟩ | e | e | e⟩ := csrWrite_cases c w s <;> rw [e] <;> exact ⟨rfl, rfl⟩

/-- Only the engine and reset change the guard's registers. -/
theorem perform_guard_cases {e : Event} {s t : State} (h : perform e s = .next t) :
    e = .engine ∨ (∃ took k, e = .reset took k) ∨ (t.deadline = s.deadline ∧ t.didTimeout = s.didTimeout) := by
  cases e with
  | engine => exact .inl rfl
  | reset took k => exact .inr (.inl ⟨took, k, rfl⟩)
  | host a =>
    refine .inr (.inr ?_)
    obtain ⟨-, e⟩ | ⟨-, -, -, e⟩ | ⟨-, -, -, ⟨-, e⟩ | ⟨w, -, e⟩⟩ := hostAccess_cases a s <;>
      rw [perform, e] at h <;> cases h
    · exact ⟨rfl, rfl⟩
    · exact csrWrite_keeps_guard _ w s
  | transport a =>
    cases h
    rw [transportAnswers_frame]
    exact .inr (.inr ⟨rfl, rfl⟩)
  | wire k free =>
    cases h
    rw [transfersByte_frame]
    exact .inr (.inr ⟨rfl, rfl⟩)
  | tick k =>
    cases h
    exact .inr (.inr ⟨rfl, rfl⟩)
  | sensor bank reg v =>
    cases h
    unfold sensorChanges
    split_ifs <;> exact .inr (.inr ⟨rfl, rfl⟩)

/-- Settles O20: of the agents only the engine and reset reach the flag, and of the commands only TIMEOUT_OCCURRED clears it. -/
theorem stickyFlagIsClearedOnlyByItsRead : Obligations.StickyFlagIsClearedOnlyByItsRead := by
  intro s t hinv h hset
  obtain ⟨u, hu, rfl⟩ := step_next h
  have hdraw : (drawNext u).didTimeout = u.didTimeout := rfl
  rw [hdraw]
  obtain hengine | hreset | ⟨-, hkept⟩ := perform_guard_cases hu
  · rw [hengine] at hu
    rcases he : s.engine with _ | ⟨cmd, pos⟩
    · obtain rfl : s = u := by simpa [perform, engineTurn_idle he] using hu
      exact .inl hset
    rcases hd : decode cmd with e | i
    · obtain rfl : complete .illegal s = u := by simpa [perform, engineTurn_illegal he hd] using hu
      exact .inl hset
    · have hx : exec i s = .next u := by simpa [perform, engineTurn_ok he hd] using hu
      have hturn : TurnOf i s u := ⟨hinv, hx, cmd, pos, he, hd⟩
      rcases hflag : u.didTimeout
      · obtain hclear | rfl := hturn.didTimeout_cleared hflag
        · simp [hset] at hclear
        · exact .inr (.inr ⟨hengine, cmd, pos, rfl, hd⟩)
      · exact .inl rfl
  · exact .inr (.inl hreset)
  · exact .inl (hkept.trans hset)

/-- Settles O22: an idle engine's turn does nothing, and no other agent but reset writes DEADLINE. -/
theorem deadlineChangesOnlyWhileBusy : Obligations.DeadlineChangesOnlyWhileBusy := by
  intro s t h hne
  obtain ⟨u, hu, rfl⟩ := step_next h
  obtain hengine | hreset | ⟨hkept, -⟩ := perform_guard_cases hu
  · refine .inl fun he => hne ?_
    rw [hengine] at hu
    obtain rfl : s = u := by simpa [perform, engineTurn_idle he] using hu
    rfl
  · exact .inr hreset
  · exact absurd hkept hne

end Sys2Proof.Machine
end

section
/-! PROOFS. What the host sees and what it writes: STATUS (spec/10_state.md R27, spec/60_exceptions.md R250), the CSR map (R25), reads
(R46), writes to an idle and to a busy block (R26, R41), and the state after reset (R45). -/

namespace Sys2Proof.Machine

open Sys2Proof

/-! ## STATUS -/

theorem getLsbD_word (n k : Nat) (b : Bool) (hk : k < 32) (hn : n / 2 ^ k % 2 = b.toNat) : (word n).getLsbD k = b := by
  rw [word, BitVec.getLsbD_ofNat, Nat.testBit_eq_decide_div_mod_eq, hn, decide_eq_true hk]
  cases b <;> rfl

theorem getLsbD_word_eq_false {n k : Nat} (hn : n < 2 ^ k) : (word n).getLsbD k = false := by
  simp [word, BitVec.getLsbD_ofNat, Nat.testBit_lt_two_pow hn]

/-- Settles O25: each field is the binary digits of the sum at its place, since every summand below it is too small to reach it. -/
theorem statusFieldsStandAtTheirPlaces : Obligations.StatusFieldsStandAtTheirPlaces := by
  intro s
  have hbusy := s.busy.toNat_le
  have hdone := s.done.toNat_le
  have herr := s.err.code.isLt
  have hoverrun := s.overrun.toNat_le
  have hbank := s.bankValid.toNat_le
  have hcfg := s.cfgValid.toNat_le
  have hguard := s.guardEn.toNat_le
  have hstop := s.stopValid.toNat_le
  have hrunning : decide (s.engine ≠ .idle) = s.busy := by
    cases he : s.engine <;> simp [State.busy, he]
  unfold State.statusWord
  refine ⟨?busy, ?done, ?two, ?three, ?err, ?overrun, ?bank, ?cfg, ?guard, ?stop, ?reserved⟩
  case busy => rw [hrunning]; exact getLsbD_word _ _ _ (by decide) (by omega)
  case err =>
    have hcode : ∀ n : Nat, n / 2 ^ 4 % 2 ^ 4 = s.err.code.toNat → ((word n).extractLsb' 4 4).toNat = s.err.code.toNat := by
      intro n hn
      rw [word, BitVec.extractLsb'_toNat, BitVec.toNat_ofNat, Nat.shiftRight_eq_div_pow]
      omega
    rw [hcode _ (by omega)]
    cases s.err <;> rfl
  case reserved => exact fun k hk => getLsbD_word_eq_false (lt_of_lt_of_le (by omega) (Nat.pow_le_pow_right (by decide) hk))
  case two | three => exact getLsbD_word _ _ false (by decide) (by rw [Bool.toNat_false]; omega)
  all_goals exact getLsbD_word _ _ _ (by decide) (by omega)

/-! ## The CSR map -/

/-- The window's map ends at word index 22 (R25). -/
theorem ofIndex_reserved {n : Nat} (h : 23 ≤ n) : Csr.ofIndex n = .reserved := by
  obtain ⟨m, rfl⟩ := Nat.exists_eq_add_of_le' h
  rfl

/-- The word indices of CMD, STATUS, ARG0 to ARG5, IO_TIMEOUT, DEV_ADDR and STOP_VAR: all that R25 lets the host write. -/
def hostWritable : List Nat := [0, 1, 2, 3, 4, 5, 6, 7, 14, 17, 19]

theorem write_of_not_hostWritable {n : Nat} (h : n ∉ hostWritable) (w : Word) (s : State) : (Csr.ofIndex n).write w s = s := by
  by_cases hn : 23 ≤ n
  · rw [ofIndex_reserved hn]
    rfl
  · interval_cases n <;> simp [hostWritable] at h <;> rfl

theorem hostAccess_word {s : State} {off : Nat} (data : Option Word) (halign : off % 4 = 0) (hwin : off < 0x100) :
    hostAccess { offset := off, bytes := 4, data := data } s = .next (match data with
      | none => { s with readData := (Csr.ofIndex (off / 4)).read s }
      | some w => (Csr.ofIndex (off / 4)).write w s) := by
  have hin : ¬ 0x100 ≤ off := by omega
  cases data <;> simp [hostAccess, halign, hin]

theorem step_hostRead {s : State} {off : Nat} (hnext : s.next = .host { offset := off, bytes := 4, data := none })
    (halign : off % 4 = 0) (hwin : off < 0x100) :
    step s = .next (drawNext { s with readData := (Csr.ofIndex (off / 4)).read s }) := by
  rw [step, hnext, perform, hostAccess_word none halign hwin, thenDraw, ← hnext]

theorem step_hostWrite {s : State} {off : Nat} {w : Word} (hnext : s.next = .host { offset := off, bytes := 4, data := some w })
    (halign : off % 4 = 0) (hwin : off < 0x100) : step s = .next (drawNext ((Csr.ofIndex (off / 4)).write w s)) := by
  rw [step, hnext, perform, hostAccess_word (some w) halign hwin, thenDraw]

/-! ## Reads -/

/-- Settles O26: the step's word is what the map's register reads as, and the map is gone through offset by offset. -/
theorem hostReadsReturnTheRegisters : Obligations.HostReadsReturnTheRegisters := by
  intro s off hnext halign hwin
  refine ⟨(Csr.ofIndex (off / 4)).read s, step_hostRead hnext halign hwin, ?_⟩
  refine ⟨?_, ?_, ?_, ?_, ?_, ?_, ?_, ?_, ?_, ?_, ?_, ?_, ?_, ?_, ?_, ?deadlineLo, ?deadlineHi, ?devAddr, ?bank, ?stopVar, ?_,
    ?seqPc, ?seqLen, ?reserved⟩
  case deadlineLo =>
    rintro rfl
    exact BitVec.extractLsb'_toNat 0 32 s.deadline
  case deadlineHi =>
    rintro rfl
    have hlt := s.deadline.isLt
    have hhigh : (s.deadline.extractLsb' 32 32).toNat = s.deadline.toNat / 2 ^ 32 := by
      rw [BitVec.extractLsb'_toNat, Nat.shiftRight_eq_div_pow]
      omega
    exact hhigh
  case devAddr | bank | stopVar | seqPc =>
    rintro rfl
    exact BitVec.toNat_setWidth_of_le (by decide)
  case seqLen =>
    rintro rfl hlen
    calc ((BitVec.ofNat 16 s.tuning.length).setWidth 32).toNat
        = (BitVec.ofNat 16 s.tuning.length).toNat := BitVec.toNat_setWidth_of_le (by decide)
      _ = s.tuning.length := by rw [BitVec.toNat_ofNat]; omega
  case reserved =>
    intro hoff
    rw [ofIndex_reserved (by omega)]
    rfl
  all_goals
    rintro rfl
    rfl

/-- Settles O29: what each register reads as is made of other fields. -/
theorem noRegisterShowsTheStickyFlag : Obligations.NoRegisterShowsTheStickyFlag := by
  intro c s b
  cases c <;> rfl

/-! ## Writes -/

theorem csrWrite_draws (c : Csr) (w : Word) (s : State) : (c.write w s).draws = s.draws := by
  obtain e | ⟨v, e⟩ | ⟨-, e | ⟨f, e⟩ | e | e | e⟩ := csrWrite_cases c w s <;> simp [e]

/-- R41: while a command runs, a write reaches OVERRUN alone. -/
theorem write_of_running {s : State} {cmd : Word} {pos : Pos} (he : s.engine = .running cmd pos) (c : Csr) (w : Word) :
    c.write w s = { s with overrun := (c.write w s).overrun } := by
  obtain e | ⟨v, e⟩ | ⟨hidle, -⟩ := csrWrite_cases c w s
  · rw [e]
  · rw [e]
  · simp [he] at hidle

theorem unlessBusy_running {s : State} {cmd : Word} {pos : Pos} (he : s.engine = .running cmd pos) (written : State) :
    unlessBusy s written = { s with overrun := true } := by
  simp [unlessBusy, State.busy, he]

theorem unlessBusy_idle {s : State} (he : s.engine = .idle) (written : State) : unlessBusy s written = written := by
  simp [unlessBusy, State.busy, he]

/-- An offset outside the list of R25's writable offsets names no writable register. -/
theorem not_hostWritable_of_offset {off : Nat} (halign : off % 4 = 0)
    (h : off ∉ [0x00, 0x04, 0x08, 0x0C, 0x10, 0x14, 0x18, 0x1C, 0x38, 0x44, 0x4C]) : off / 4 ∉ hostWritable := by
  simp only [hostWritable, List.mem_cons, List.not_mem_nil, or_false, not_or] at h ⊢
  omega

/-- Settles O27: every writable register but STATUS passes through R41's check. -/
theorem hostWritesAreDroppedWhileBusy : Obligations.HostWritesAreDroppedWhileBusy := by
  intro s cmd w pos off he hnext halign hwin
  have hwrite := write_of_running he (Csr.ofIndex (off / 4)) w
  refine ⟨_, by rw [step_hostWrite hnext halign hwin, hwrite]; rfl, ?dropped, ?status, ?other⟩
  case dropped =>
    intro hoff
    simp only [List.mem_cons, List.not_mem_nil, or_false] at hoff
    obtain rfl | rfl | rfl | rfl | rfl | rfl | rfl | rfl | rfl | rfl := hoff <;>
      exact congrArg State.overrun (unlessBusy_running he _)
  case status =>
    rintro rfl
    rfl
  case other =>
    intro hoff
    rw [write_of_not_hostWritable (not_hostWritable_of_offset halign hoff)]

/-- Settles O28: an idle block takes the written word at every writable register. -/
theorem hostWritesWhileIdle : Obligations.HostWritesWhileIdle := by
  intro s w off he hnext halign hwin
  refine ⟨(Csr.ofIndex (off / 4)).write w s, by rw [step_hostWrite hnext halign hwin, drawNext, csrWrite_draws],
    ?_, ?status, ?_, ?_, ?_, ?_, ?_, ?_, ?_, ?_, ?_, ?other⟩
  case status =>
    rintro rfl
    rfl
  case other => exact fun hoff => write_of_not_hostWritable (not_hostWritable_of_offset halign hoff) w s
  all_goals
    rintro rfl
    exact unlessBusy_idle he _

/-! ## Reset -/

theorem reset_statusWord : State.reset.statusWord = 0 := by decide

/-- Settles O23: reset writes its values whatever the state was; STATUS is put together from them. -/
theorem resetLeavesTheTableOfR45 : Obligations.ResetLeavesTheTableOfR45 := by
  refine ⟨?atReset, fun s took k hnext => ⟨drawNext (resetBlock took k s), by rw [step, hnext]; rfl, ?afterReset⟩⟩
  case atReset =>
    exact ⟨rfl, rfl, rfl, rfl, rfl, rfl, rfl, rfl, reset_statusWord, rfl, rfl, rfl, rfl, rfl, rfl, rfl, rfl, rfl, rfl, rfl, rfl⟩
  case afterReset =>
    exact ⟨rfl, rfl, rfl, rfl, rfl, rfl, rfl, rfl, reset_statusWord, rfl, rfl, rfl, rfl, rfl, rfl, rfl, rfl, rfl, rfl, rfl, rfl⟩

end Sys2Proof.Machine
end

section
/-! PROOFS. Which steps stop the machine (spec/20_memory.md R60, R68), and the canonical form of the sensor's register file along a run
(R60, R65). -/

namespace Sys2Proof.Machine

open Sys2Proof

/-! ## Steps that go on and steps that stop -/

/-- Everything an engine's turn can do that goes on: nothing, the end of a word that is no command's, or the turn of its command. -/
theorem engineTurn_next {s t : State} (h : engineTurn s = .next t) :
    (s.engine = .idle ∧ t = s) ∨
    ((∃ cmd pos e, s.engine = .running cmd pos ∧ decode cmd = .error e) ∧ t = complete .illegal s) ∨
    ∃ cmd pos i, s.engine = .running cmd pos ∧ decode cmd = .ok i ∧ exec i s = .next t := by
  rcases he : s.engine with _ | ⟨cmd, pos⟩
  · rw [engineTurn_idle he] at h
    cases h
    exact .inl ⟨rfl, rfl⟩
  rcases hd : decode cmd with e | i
  · rw [engineTurn_illegal he hd] at h
    cases h
    exact .inr (.inl ⟨⟨cmd, pos, e, rfl, hd⟩, rfl⟩)
  · rw [engineTurn_ok he hd] at h
    exact .inr (.inr ⟨cmd, pos, i, rfl, hd, h⟩)

/-- Everything a host access can do that goes on: one CSR read or write. -/
theorem hostAccess_next {a : Access} {s t : State} (h : hostAccess a s = .next t) :
    (∃ v, t = { s with readData := v }) ∨ ∃ c w, t = Csr.write c w s := by
  obtain ⟨-, e⟩ | ⟨-, -, -, e⟩ | ⟨-, -, -, ⟨-, e⟩ | ⟨w, -, e⟩⟩ := hostAccess_cases a s <;> rw [e] at h <;> cases h
  · exact .inl ⟨_, rfl⟩
  · exact .inr ⟨_, w, rfl⟩

/-- The engine never stops the machine: every command's turn goes on, and a word that is no command's completes. -/
theorem engineTurn_goes_on (s : State) : ∃ t, engineTurn s = .next t := by
  rcases he : s.engine with _ | ⟨cmd, pos⟩
  · exact ⟨s, engineTurn_idle he⟩
  rcases hd : decode cmd with e | i
  · exact ⟨_, engineTurn_illegal he hd⟩
  · obtain ⟨t, ht, -⟩ := exec_cases i s
    exact ⟨t, (engineTurn_ok he hd).trans ht⟩

theorem hostAccess_goes_on_iff (a : Access) (s : State) :
    (∃ t, hostAccess a s = .next t) ↔ a.bytes = 4 ∧ a.offset % 4 = 0 ∧ a.offset < 0x100 := by
  obtain ⟨hshape, e⟩ | ⟨hb, ho, hout, e⟩ | ⟨hb, ho, hin, hcsr⟩ := hostAccess_cases a s
  · simp only [e, reduceCtorEq, exists_false, false_iff]
    omega
  · simp only [e, reduceCtorEq, exists_false, false_iff]
    omega
  · refine iff_of_true ?_ ⟨hb, ho, hin⟩
    obtain ⟨-, e⟩ | ⟨w, -, e⟩ := hcsr
    · exact ⟨_, e⟩
    · exact ⟨_, e⟩

/-- Of the agents only the host can stop the machine. -/
theorem perform_goes_on {e : Event} (s : State) (h : ∀ a, e ≠ .host a) : ∃ t, perform e s = .next t := by
  cases e with
  | engine => exact engineTurn_goes_on s
  | host a => exact absurd rfl (h a)
  | transport | wire | tick | sensor | reset => exact ⟨_, rfl⟩

theorem step_goes_on_iff (s : State) : (∃ t, step s = .next t) ↔ ∃ u, perform s.next s = .next u := by
  constructor
  · rintro ⟨t, h⟩
    obtain ⟨u, hu, -⟩ := step_next h
    exact ⟨u, hu⟩
  · rintro ⟨u, hu⟩
    exact ⟨drawNext u, by rw [step, hu, thenDraw]⟩

/-- Settles O8: only a host access can stop the machine, and it does exactly where it is no aligned word inside the window. -/
theorem onlyAMalformedHostAccessStops : Obligations.OnlyAMalformedHostAccessStops := by
  intro s
  rw [← not_exists, step_goes_on_iff]
  by_cases hhost : ∃ a, s.next = .host a
  · obtain ⟨a, ha⟩ := hhost
    simp only [ha, perform, hostAccess_goes_on_iff, Event.host.injEq, exists_eq_left']
    omega
  · have hothers : ∀ a, s.next ≠ .host a := not_exists.1 hhost
    simp [perform_goes_on s hothers, hothers]

/-! ## The canonical register file -/

theorem csrWrite_sensor (c : Csr) (w : Word) (s : State) : (c.write w s).sensor = s.sensor := by
  obtain e | ⟨v, e⟩ | ⟨-, e | ⟨f, e⟩ | e | e | e⟩ := csrWrite_cases c w s <;> simp [e]

theorem perform_wf {e : Event} {s t : State} (hwf : s.sensor.wf = true) (h : perform e s = .next t) : t.sensor.wf = true := by
  cases e with
  | engine =>
    obtain ⟨-, rfl⟩ | ⟨-, rfl⟩ | ⟨cmd, pos, i, -, -, hx⟩ := engineTurn_next h
    · exact hwf
    · exact hwf
    · rwa [(exec_keeps_surroundings hx).sensor]
  | host a =>
    obtain ⟨v, rfl⟩ | ⟨c, w, rfl⟩ := hostAccess_next h
    · exact hwf
    · rwa [csrWrite_sensor]
  | transport a =>
    cases h
    exact transportAnswers_wf a hwf
  | wire k free =>
    cases h
    exact transfersByte_wf _ free hwf
  | tick k =>
    cases h
    exact hwf
  | sensor bank reg v =>
    cases h
    exact sensorChanges_wf bank reg v hwf
  | reset took k =>
    cases h
    exact resetBlock_wf took k hwf

/-- Settles O19: each agent's event keeps the form, and drawing the next event does not touch the sensor. -/
theorem everyStepKeepsMemoryCanonical : Obligations.EveryStepKeepsMemoryCanonical := by
  intro s t hwf h
  obtain ⟨u, hu, rfl⟩ := step_next h
  have hkept : u.sensor.wf = true := perform_wf hwf hu
  exact hkept

/-- Settles O18: the empty file is canonical. -/
theorem memoryCanonicalAtReset : Obligations.MemoryCanonicalAtReset := rfl

end Sys2Proof.Machine
end

section
/-! PROOFS. The transport's answers and single transfers, and what of a request's bytes they take to or bring from the sensor
(spec/20_memory.md R60, R63, R65, R70, R81). -/

namespace Sys2Proof.Machine

open Sys2Proof

/-! ## What the sensor takes of a write -/

/-- A 1-byte write to 0xFF selects the bank, if its byte is taken (R65). -/
theorem takeBytes_bankSelect (v : Word) (took : BitVec 4) (s : State) :
    takeBytes (wireBytes .one v) 0xFF#8 took s = if took.getLsbD 0 then { s with sensorBank := v.setWidth 8 } else s := by
  have hbyte : v.extractLsb' 0 8 = v.setWidth 8 := (BitVec.setWidth_eq_extractLsb' (by decide)).symm
  simp only [wireBytes, takeBytes, sensorTake, if_true, hbyte]

/-- The taken bytes land as the statements say it: in their registers, in the bus address, or in the bank. -/
theorem takesBytes_takeBytes {s : State} {took : Nat → Bool} {mask : BitVec 4} (reg : Byte) (n : Width) (v : Word)
    (hwf : s.sensor.wf = true) (htook : ∀ k, k < n.bytes → took k = mask.getLsbD k) :
    TakesBytes took reg n v s (takeBytes (wireBytes n v) reg mask s) := by
  have hlen := wireBytes_length n v
  refine ⟨fun hr => ?below, ?bankSelect⟩
  case below =>
    obtain ⟨hbank, hbytes, hother⟩ := takeBytes_below (wireBytes n v) reg mask hwf (hlen ▸ hr)
    obtain ⟨hstays, hmoves⟩ := takeBytes_addr (s := s) (wireBytes n v) reg mask (hlen ▸ hr)
    refine ⟨hbank, fun k hk => ?_, fun a ha => hother a fun k hk => ha k (hlen ▸ hk), fun hn => hstays fun k hk ht => ?_,
      fun k hk ht hy hl => ?_⟩
    · have hbyte := hbytes k (hlen ▸ hk)
      rw [physAddr] at hbyte
      rw [hbyte, htook k hk]
      split_ifs
      · exact wireBytes_toNat n v k (hlen ▸ hk)
      · rfl
    · have hk' : k < n.bytes := hlen ▸ hk
      exact hn k hk' ((htook k hk').trans ht)
    · have hmoved := hmoves k (hlen ▸ hk) (htook k hk ▸ ht) hy fun j hkj hj hmask => ?_
      · rw [hmoved, BitVec.toNat_setWidth, wireBytes_toNat]
        omega
      · have hj' : j < n.bytes := hlen ▸ hj
        exact hl j hkj hj' ((htook j hj').trans hmask)
  case bankSelect =>
    rintro rfl rfl
    rw [takeBytes_bankSelect, htook 0 Nat.zero_lt_one]
    cases mask.getLsbD 0 <;> exact ⟨rfl, rfl, rfl⟩

theorem sensorServes_elsewhere {s : State} {dev : DevAddr} (took : BitVec 4) (reg : Byte) (n : Width) (v : Word) (p : Transfer)
    (h : dev ≠ s.sensorAddr) : sensorServes took (.write dev reg n v) p s = s := if_neg h

theorem sensorServes_here {s : State} {dev : DevAddr} (took : BitVec 4) (reg : Byte) (n : Width) (v : Word) (p : Transfer)
    (h : dev = s.sensorAddr) :
    sensorServes took (.write dev reg n v) p s = takeBytes (wireBytes n v) reg (took &&& p.left) s := if_pos h

theorem sensorServes_zero (r : Request) (p : Transfer) (s : State) : sensorServes 0 r p s = s := by
  obtain e | ⟨dev, reg, n, v, -, -, e⟩ := sensorServes_cases 0 r p s
  · exact e
  · rw [e, show (0 : BitVec 4) &&& p.left = 0#4 from BitVec.zero_and, takeBytes_none]

theorem Width.bytes_le (n : Width) : n.bytes ≤ 4 := by cases n <;> decide

theorem getLsbD_and_left (took : BitVec 4) (p : Transfer) {k : Nat} (hk : k < 4) :
    (took &&& p.left).getLsbD k = (took.getLsbD k && (p.get k).isNone) := by
  rw [BitVec.getLsbD_and, p.getLsbD_left hk]

/-- Of a WRITE to its own address the sensor takes the named bytes, those already transferred excepted. -/
theorem takesBytes_sensorServes {s : State} {dev : DevAddr} {took : Nat → Bool} {mask : BitVec 4} {p : Transfer} (reg : Byte)
    (n : Width) (v : Word) (hwf : s.sensor.wf = true) (hdev : dev = s.sensorAddr)
    (htook : ∀ k, k < 4 → took k = (mask.getLsbD k && (p.get k).isNone)) :
    TakesBytes took reg n v s (sensorServes mask (.write dev reg n v) p s) := by
  rw [sensorServes_here mask reg n v p hdev]
  refine takesBytes_takeBytes reg n v hwf fun k hk => ?_
  have hk4 : k < 4 := Nat.lt_of_lt_of_le hk n.bytes_le
  rw [htook k hk4, getLsbD_and_left mask p hk4]

/-! ## What a read returns -/

/-- R60, R63, R65: the byte of register `reg + k` at the device's address. -/
theorem deviceByte_toNat (s : State) (free : Byte) (dev : DevAddr) (reg : Byte) (k : Nat) (hk : reg.toNat + k ≤ 0xFF) :
    (deviceByte s free dev (reg + BitVec.ofNat 8 k)).toNat =
      if dev ≠ s.sensorAddr ∨ reg.toNat + k = 0xFF then free.toNat
      else (s.sensor.read (256 * s.sensorBank.toNat + reg.toNat + k)).toNat := by
  have hreg : (reg + BitVec.ofNat 8 k).toNat = reg.toNat + k := by
    rw [BitVec.toNat_add, BitVec.toNat_ofNat]
    omega
  have hlast : reg + BitVec.ofNat 8 k = 0xFF#8 ↔ reg.toNat + k = 0xFF := by
    rw [← BitVec.toNat_inj, hreg]
    rfl
  by_cases hdev : dev = s.sensorAddr
  · by_cases hff : reg.toNat + k = 0xFF
    · simp [deviceByte, sensorByte, hdev, hlast.2 hff, hff]
    · simp [deviceByte, sensorByte, hdev, mt hlast.1 hff, hff, physAddr, hreg, Nat.add_assoc]
  · simp [deviceByte, hdev]

theorem freeByte_toNat (free : Word) (k : Nat) : (freeByte free k).toNat = free.toNat / 256 ^ k % 256 := by
  rw [freeByte, BitVec.extractLsb'_toNat, Nat.shiftRight_eq_div_pow, Nat.pow_mul]

/-- A value is big-endian in its wire bytes (R63). -/
theorem wireValue_toNat (n : Width) (byte : Nat → Byte) :
    (wireValue n byte).toNat = match n with
      | .one => (byte 0).toNat
      | .two => (byte 0).toNat * 256 + (byte 1).toNat
      | .four => (byte 0).toNat * 2 ^ 24 + (byte 1).toNat * 2 ^ 16 + (byte 2).toNat * 2 ^ 8 + (byte 3).toNat := by
  have h0 := (byte 0).isLt
  have h1 := (byte 1).isLt
  have h2 := (byte 2).isLt
  have h3 := (byte 3).isLt
  cases n with
  | one => exact BitVec.toNat_setWidth_of_le (by decide)
  | two | four =>
    simp only [wireValue, word, BitVec.toNat_ofNat]
    omega

/-- A register the sensor has changed reads as changed at its own address; elsewhere, and at 0xFF, the free byte does (logs 4 and 13). -/
theorem deviceByte_sensorChanges {s : State} (b free : Byte) (dev : DevAddr) (reg : Byte) (hwf : s.sensor.wf = true) :
    deviceByte (sensorChanges s.sensorBank reg b s) free dev reg = if reg = 0xFF ∨ dev ≠ s.sensorAddr then free else b := by
  by_cases hff : reg = 0xFF#8
  · simp [sensorChanges, deviceByte, sensorByte, hff]
  · by_cases hdev : dev = s.sensorAddr
    · simp [sensorChanges, deviceByte, sensorByte, hff, hdev, Memory.read_write_same b hwf]
    · simp [sensorChanges, deviceByte, hff, hdev]

theorem sensorChanges_bus (bank reg v : Byte) (s : State) : (sensorChanges bank reg v s).bus = s.bus := by
  unfold sensorChanges
  split_ifs <;> rfl

theorem freeByte_zext (b : Byte) : freeByte (zext b) 0 = b :=
  calc (zext b).extractLsb' 0 8
      = (b.setWidth 32).setWidth 8 := (BitVec.setWidth_eq_extractLsb' (by decide)).symm
    _ = b := by rw [BitVec.setWidth_setWidth_of_le _ (by decide), BitVec.setWidth_eq]

theorem readValue_one (s : State) (free : Word) (dev : DevAddr) (reg : Byte) :
    readValue s free dev reg .one .none = zext (deviceByte s (freeByte free 0) dev reg) := by
  simp [readValue, wireValue, Transfer.none, Transfer.get]

/-! ## Answers and single transfers, one equation each -/

theorem transportAnswers_of_not_pending {s : State} (a : Answer) (h : ∀ r p, s.bus ≠ .pending r p) : transportAnswers a s = s := by
  rcases hb : s.bus with _ | ⟨r, p⟩ | _
  · simp [transportAnswers, hb]
  · exact absurd hb (h r p)
  · simp [transportAnswers, hb]

theorem transfersByte_of_not_pending {s : State} (k : Nat) (free : Byte) (h : ∀ r p, s.bus ≠ .pending r p) :
    transfersByte k free s = s := by
  rcases hb : s.bus with _ | ⟨r, p⟩ | _
  · simp [transfersByte, hb]
  · exact absurd hb (h r p)
  · simp [transfersByte, hb]

section InFlight

variable {s : State} {dev : DevAddr} {reg : Byte} {n : Width} {v : Word} {p : Transfer}

theorem transportAnswers_ok_read (free : Word) (hb : s.bus = .pending (.read dev reg n) p) :
    transportAnswers (.ok free) s = { s with bus := .answered (.read dev reg n) (.ok (readValue s free dev reg n p)) } := by
  simp [transportAnswers, hb]

theorem transportAnswers_fail_read (took : BitVec 4) (hb : s.bus = .pending (.read dev reg n) p) :
    transportAnswers (.fail took) s = { s with bus := .answered (.read dev reg n) .fail } := by
  simp [transportAnswers, hb]

theorem transportAnswers_ok_write (free : Word) (hb : s.bus = .pending (.write dev reg n v) p) :
    transportAnswers (.ok free) s =
      { s.withSensor (sensorServes 0xF (.write dev reg n v) p s) with bus := .answered (.write dev reg n v) (.ok 0) } := by
  simp [transportAnswers, hb]

theorem transportAnswers_fail_write (took : BitVec 4) (hb : s.bus = .pending (.write dev reg n v) p) :
    transportAnswers (.fail took) s =
      { s.withSensor (sensorServes took (.write dev reg n v) p s) with bus := .answered (.write dev reg n v) .fail } := by
  simp [transportAnswers, hb]

theorem transfersByte_read {k : Nat} (free : Byte) (hb : s.bus = .pending (.read dev reg n) p) (hk : k < n.bytes)
    (hp : p.get k = none) :
    transfersByte k free s =
      { s with bus := .pending (.read dev reg n) (p.set k (deviceByte s free dev (reg + BitVec.ofNat 8 k))) } := by
  simp [transfersByte, hb, hk, hp]

theorem transfersByte_write {k : Nat} (free : Byte) (hb : s.bus = .pending (.write dev reg n v) p) (hk : k < n.bytes)
    (hp : p.get k = none) :
    transfersByte k free s =
      { s.withSensor (sensorServes (1#4 <<< k) (.write dev reg n v) p s) with
        bus := .pending (.write dev reg n v) (p.set k ((wireBytes n v).getD k 0)) } := by
  simp [transfersByte, hb, hk, hp]

theorem transfersByte_read_nothing_left {k : Nat} (free : Byte) (hb : s.bus = .pending (.read dev reg n) p)
    (h : n.bytes ≤ k ∨ p.get k ≠ none) : transfersByte k free s = s := by
  have hleft : ¬ (k < n.bytes ∧ p.get k = none) := fun ⟨hk, hp⟩ => h.elim (Nat.not_le.2 hk) fun hne => hne hp
  simp [transfersByte, hb, hleft]

theorem transfersByte_write_nothing_left {k : Nat} (free : Byte) (hb : s.bus = .pending (.write dev reg n v) p)
    (h : n.bytes ≤ k ∨ p.get k ≠ none) : transfersByte k free s = s := by
  have hleft : ¬ (k < n.bytes ∧ p.get k = none) := fun ⟨hk, hp⟩ => h.elim (Nat.not_le.2 hk) fun hne => hne hp
  simp [transfersByte, hb, hleft]

end InFlight

/-! ## The statements -/

/-- Settles O30: an Ok takes every byte that is left, a single transfer its own. -/
theorem okWritesReachTheirRegisters : Obligations.OkWritesReachTheirRegisters := by
  intro s free lone dev reg n v p hb hwf
  have helsewhere (took : BitVec 4) (hdev : dev ≠ s.sensorAddr) := sensorServes_elsewhere took reg n v p hdev
  refine ⟨⟨_, _, _, transportAnswers_ok_write free hb, fun hdev => ?okElsewhere, fun hdev => ?okHere⟩,
    fun k hk hp => ⟨_, _, _, _, transfersByte_write lone hb hk hp, ?transferred, fun hdev => ?loneElsewhere, fun hdev => ?loneHere⟩,
    fun k => transfersByte_write_nothing_left lone hb⟩
  case okElsewhere | loneElsewhere => rw [helsewhere _ hdev]; exact ⟨rfl, rfl, rfl⟩
  case okHere =>
    refine takesBytes_sensorServes reg n v hwf hdev fun j hj => ?_
    have hall : (0xF : BitVec 4).getLsbD j = true := by
      interval_cases j <;> rfl
    rw [hall, Bool.true_and]
  case loneHere =>
    have hk4 : k < 4 := Nat.lt_of_lt_of_le hk n.bytes_le
    refine takesBytes_sensorServes reg n v hwf hdev fun j hj => ?_
    have hbit : (1#4 <<< k).getLsbD j = (j == k) := by
      interval_cases k <;> interval_cases j <;> rfl
    rw [hbit]
    by_cases hjk : j = k
    · simp [hjk, hp]
    · simp [hjk]
  case transferred =>
    intro j
    rw [p.get_set j _ (Nat.lt_of_lt_of_le hk n.bytes_le)]
    by_cases hjk : j = k <;> simp [hjk]

/-- Settles O31: the value is put together from the wire bytes, and each that is left is the device's register now. -/
theorem okReadsReturnTheirRegisters : Obligations.OkReadsReturnTheirRegisters := by
  intro s free lone dev reg n p hb hfit now at_
  have hnow (byte : Byte) (k : Nat) (hk : k < n.bytes) :
      (deviceByte s byte dev (reg + BitVec.ofNat 8 k)).toNat = now byte.toNat k :=
    deviceByte_toNat s byte dev reg k (by omega)
  have hat (k : Nat) (hk : k < n.bytes) :
      ((p.get k).getD (deviceByte s (freeByte free k) dev (reg + BitVec.ofNat 8 k))).toNat = at_ k := by
    simp only [at_]
    cases p.get k with
    | some b => rfl
    | none => rw [Option.getD_none, hnow _ k hk, freeByte_toNat]
  refine ⟨⟨_, transportAnswers_ok_read free hb, ?one, ?two, ?four⟩,
    fun k hk hp => ⟨_, _, transfersByte_read lone hb hk hp, hnow lone k hk,
      fun j => p.get_set j _ (Nat.lt_of_lt_of_le hk n.bytes_le)⟩,
    fun k => transfersByte_read_nothing_left lone hb⟩
  all_goals
    rintro rfl
    rw [readValue, wireValue_toNat]
  case one => exact hat 0 (by decide)
  case two => simp only [hat 0 (by decide), hat 1 (by decide)]
  case four => simp only [hat 0 (by decide), hat 1 (by decide), hat 2 (by decide), hat 3 (by decide)]

/-- Settles O60: the sensor serves a failed WRITE with the answer's mask, and a failed READ not at all. -/
theorem aFailedAnswerDeliversTheFailure : Obligations.AFailedAnswerDeliversTheFailure := by
  intro s took
  refine ⟨fun dev reg n p => transportAnswers_fail_read took,
    fun dev reg n v p hb => ⟨_, _, _, transportAnswers_fail_write took hb, ?untouched, fun hdev hwf => ?taken⟩,
    transportAnswers_of_not_pending (.fail took)⟩
  case untouched =>
    rintro (rfl | hdev)
    · rw [sensorServes_zero]
      exact ⟨rfl, rfl, rfl⟩
    · rw [sensorServes_elsewhere took reg n v p hdev]
      exact ⟨rfl, rfl, rfl⟩
  case taken => exact takesBytes_sensorServes reg n v hwf hdev fun _ _ => rfl

/-- Settles O32: the byte read is the one the sensor has put there, or the answer's free byte. -/
theorem aReadMayReturnAnyByte : Obligations.AReadMayReturnAnyByte := by
  intro s b free dev reg hwf hb
  rw [transportAnswers_ok_read _ ((sensorChanges_bus s.sensorBank reg b s).trans hb), readValue_one,
    deviceByte_sensorChanges b _ dev reg hwf]
  split_ifs
  · rw [freeByte_zext]
  · rfl

end Sys2Proof.Machine
end

section
/-! PROOFS. The bank shadow along a run: what each agent's step keeps of it (spec/20_memory.md R65, R66, spec/41_sequencer.md R150,
spec/60_exceptions.md R253, spec/70_reset_and_hazards.md R283). -/

namespace Sys2Proof.Machine

open Sys2Proof

/-! ## Writes and the sensor's bank -/

/-- Only commands that meet R97's register constraints decode. -/
theorem wf_of_decode {w : Word} {i : Instr} (h : decode w = .ok i) : i.wf = true := by
  unfold decode at h
  split_ifs at h
  split at h
  · cases h
  · split_ifs at h with _ hwf
    cases h
    exact hwf

/-- R68, R97: a command's write is a 1-byte one to 0xFF or stays below it. -/
theorem request_write_fits {i : Instr} {s : State} {dev : DevAddr} {reg : Byte} {n : Width} {v : Word} (hwf : i.wf = true)
    (hreq : i.request s = some (.write dev reg n v)) : (reg = 0xFF#8 ∧ n = .one) ∨ reg.toNat + n.bytes ≤ 0xFF := by
  have hone (r : Byte) : (r = 0xFF#8 ∧ Width.one = .one) ∨ r.toNat + Width.one.bytes ≤ 0xFF := by
    have := r.isLt
    by_cases h : r = 0xFF#8
    · exact .inl ⟨h, rfl⟩
    · have hne : r.toNat ≠ 0xFF := fun e => h (BitVec.eq_of_toNat_eq e)
      exact .inr (by simp only [Width.bytes]; omega)
  cases i with
  | wr8 r imm | wr8Sv r | setAddr r a =>
    cases hreq
    exact hone _
  | seqRun =>
    obtain ⟨e, -, he⟩ := Option.map_eq_some_iff.1 hreq
    cases he
    exact hone _
  | wr16 r | wr32 r =>
    cases hreq
    have hle := of_decide_eq_true hwf
    exact .inr (by simp only [Width.bytes]; omega)
  | _ => simp [Instr.request] at hreq

theorem takeBytes_sensorBank_below (bs : List Byte) (reg : Byte) (took : BitVec 4) (s : State) (hr : reg.toNat + bs.length ≤ 0xFF) :
    (takeBytes bs reg took s).sensorBank = s.sensorBank := by
  induction bs generalizing reg took s with
  | nil => rfl
  | cons b bs ih =>
    simp only [List.length_cons] at hr
    have hne : reg ≠ 0xFF#8 := fun e => by subst e; simp at hr
    have hnext : (reg + 1).toNat + bs.length ≤ 0xFF := by
      rw [BitVec.toNat_add, show (1 : Byte).toNat = 1 from rfl]
      omega
    rw [takeBytes, ih _ _ _ hnext]
    split_ifs
    · simp only [sensorTake, hne, if_false]
    · rfl

/-- A command's request that is no write to 0xFF leaves the bank, whatever of it the sensor takes. -/
theorem sensorServes_sensorBank {i : Instr} {s : State} {r : Request} (mask : BitVec 4) (p : Transfer) (hwf : i.wf = true)
    (hreq : i.request s = some r) (hr : r.writesBank = false) : (sensorServes mask r p s).sensorBank = s.sensorBank := by
  obtain e | ⟨dev, reg, n, v, rfl, -, e⟩ := sensorServes_cases mask r p s <;> rw [e]
  obtain ⟨rfl, -⟩ | hfits := request_write_fits hwf hreq
  · simp [Request.writesBank] at hr
  · exact takeBytes_sensorBank_below _ _ _ _ (by rwa [wireBytes_length])

/-- A command's write to 0xFF is a 1-byte one. -/
theorem request_of_writesBank {i : Instr} {s : State} {r : Request} (hwf : i.wf = true) (hreq : i.request s = some r)
    (hr : r.writesBank = true) : ∃ dev v, r = .write dev 0xFF#8 .one v := by
  cases r with
  | read => cases hr
  | write dev reg n v =>
    obtain rfl : reg = 0xFF#8 := by simpa [Request.writesBank] using hr
    obtain ⟨-, rfl⟩ | hfits := request_write_fits hwf hreq
    · exact ⟨dev, v, rfl⟩
    · cases n <;> simp [Width.bytes] at hfits

/-- A write to 0xFF selects the bank where its byte is named and not yet transferred. -/
theorem sensorServes_bankSelect {dev : DevAddr} (v : Word) (mask : BitVec 4) (p : Transfer) {s : State} (hdev : dev = s.sensorAddr) :
    (sensorServes mask (.write dev 0xFF#8 .one v) p s).sensorBank =
      if (mask.getLsbD 0 && p.b0.isNone) = true then v.setWidth 8 else s.sensorBank := by
  rw [sensorServes_here mask _ _ v p hdev, takeBytes_bankSelect, getLsbD_and_left mask p (by decide), Transfer.get]
  split_ifs <;> rfl

/-! ## Lines and the shadow -/

/-- BANK is what the sensor's bank is, where BANK_VALID says so, once the lines `ws` are written. -/
def ShadowAfter (ws : List Line) (s : State) : Prop :=
  (∀ b, Line.bank b ∈ ws → b = s.sensorBank) ∧
  ((∀ b, Line.bank b ∉ ws) → (s.bankValid = true ∨ Line.bankValid ∈ ws) → s.bank = s.sensorBank)

/-- Lines that write neither BANK nor BANK_VALID. -/
def LeaveShadow (ws : List Line) : Prop := ∀ l ∈ ws, Place.bank ∉ l.places ∧ Place.bankValid ∉ l.places

theorem shadowInv_idle {s : State} (he : s.engine = .idle) : ShadowInv s ↔ ShadowAgrees s := by
  simp only [ShadowInv, he]

theorem shadowInv_start {s : State} {cmd : Word} (he : s.engine = .running cmd .start) : ShadowInv s ↔ ShadowAgrees s := by
  simp only [ShadowInv, he]

theorem shadowInv_lines {s : State} {cmd : Word} {ws : List Line} {k : After} (he : s.engine = .running cmd (.lines ws k)) :
    ShadowInv s ↔ ShadowAfter ws s := by
  simp only [ShadowInv, he, ShadowAfter]

/-- While any request but a write to 0xFF is out, the shadow simply agrees. -/
theorem shadowInv_await {s : State} {cmd : Word} {r : Request} (he : s.engine = .running cmd .await) (hb : s.bus.request = some r)
    (hr : r.writesBank = false) : ShadowInv s ↔ ShadowAgrees s := by
  have hreg : ∀ dev reg n v, r = .write dev reg n v → reg ≠ 0xFF#8 := by
    rintro dev reg n v rfl
    simpa [Request.writesBank] using hr
  rcases hs : s.bus with _ | ⟨r', p⟩ | ⟨r', a⟩
  · simp [hs, Bus.request] at hb
  all_goals
    obtain rfl : r' = r := by simpa [hs, Bus.request] using hb
    cases r' with
    | read => simp only [ShadowInv, he, hs]
    | write dev reg n v => simp [ShadowInv, he, hs, hreg dev reg n v rfl]

theorem LeaveShadow.bank_notMem {ws : List Line} (h : LeaveShadow ws) (b : Byte) : Line.bank b ∉ ws :=
  fun hb => (h _ hb).1 (by simp [Line.places])

theorem LeaveShadow.bankValid_notMem {ws : List Line} (h : LeaveShadow ws) : Line.bankValid ∉ ws :=
  fun hb => (h _ hb).2 (by simp [Line.places])

theorem shadowAfter_iff_of_leaveShadow {ws : List Line} {s : State} (h : LeaveShadow ws) : ShadowAfter ws s ↔ ShadowAgrees s := by
  simp [ShadowAfter, ShadowAgrees, h.bank_notMem, h.bankValid_notMem]

theorem leaveShadow_nil : LeaveShadow [] := by simp [LeaveShadow]

/-- Writing the first line leaves what the rest must still do. -/
theorem ShadowAfter.apply_head {l : Line} {ws : List Line} {s : State} (h : ShadowAfter (l :: ws) s) : ShadowAfter ws (l.apply s) := by
  obtain ⟨hbanks, hagrees⟩ := h
  refine ⟨fun b hb => ?_, fun hnone hvalid => ?_⟩
  · rw [Line.apply_sensorBank]
    exact hbanks b (List.mem_cons_of_mem _ hb)
  · rw [Line.apply_sensorBank]
    cases l with
    | bank b => exact hbanks b List.mem_cons_self
    | bankValid => exact hagrees (by simpa using hnone) (.inr List.mem_cons_self)
    | _ => exact hagrees (by simpa using hnone) (hvalid.imp_right (List.mem_cons_of_mem _))

theorem emit_shadowInv {s : State} {cmd : Word} {pos : Pos} {ws : List Line} (k : After) (he : s.engine = .running cmd pos)
    (h : ShadowAfter ws s) : ShadowInv (emit ws k s) := by
  cases ws with
  | nil =>
    cases k with
    | finish e => exact (shadowInv_idle rfl).2 ((shadowAfter_iff_of_leaveShadow leaveShadow_nil).1 h)
    | loop =>
      rw [emit_nil_loop, setPos_of_running _ he]
      exact (shadowInv_lines rfl).2 h
  | cons l ws =>
    rw [emit_cons, setPos_of_running _ ((Line.apply_engine l s).trans he)]
    exact (shadowInv_lines rfl).2 h.apply_head

/-- A request that has just been issued has not reached the sensor. -/
theorem issue_shadowInv {s : State} {cmd : Word} {pos : Pos} (r : Request) (he : s.engine = .running cmd pos) (h : ShadowAgrees s) :
    ShadowInv (issue r s) := by
  rw [issue, setPos_of_running (s := { s with bus := .pending r .none }) .await he]
  cases r with
  | read dev reg n => exact h
  | write dev reg n v =>
    have hnone : ¬ (reg = 0xFF#8 ∧ Transfer.none.b0 ≠ none) := fun ⟨_, hreached⟩ => hreached rfl
    simp only [ShadowInv, hnone, if_false]
    exact h

/-- A deed that writes neither BANK nor BANK_VALID. -/
def Deed.LeavesShadow (d : Deed) : Prop := ∀ ws k, d = .emit ws k → LeaveShadow ws

theorem Deed.run_shadowInv {s : State} {cmd : Word} {pos : Pos} {d : Deed} (he : s.engine = .running cmd pos) (hinv : ShadowInv s)
    (h : ShadowAgrees s) (hd : d.LeavesShadow) : ShadowInv (d.run s) := by
  cases d with
  | stay => exact hinv
  | issue r => exact issue_shadowInv r he h
  | emit ws k => exact emit_shadowInv k he ((shadowAfter_iff_of_leaveShadow (hd ws k rfl)).2 h)
  | raise e => exact (shadowInv_idle rfl).2 h

/-! ## What the commands do to the shadow -/

/-- A command whose rule does not write the shadow does not. -/
theorem Deed.Allowed.leavesShadow {i : Instr} {s : State} {d : Deed} (hd : d.Allowed i s)
    (hi : ¬ (.bank ∈ i.places ∨ .bankValid ∈ i.places)) : d.LeavesShadow := by
  rintro ws k rfl l hl
  obtain ⟨-, hws, -⟩ := hd
  have hplaces := (writes_iff i l).1 (hws l hl)
  exact ⟨fun h => hi (.inl (hplaces _ h)), fun h => hi (.inr (hplaces _ h))⟩

/-- No command writes the shadow where it starts. -/
theorem script_start_leavesShadow (i : Instr) (s : State) : ((script i).start s).LeavesShadow := by
  by_cases hi : .bank ∈ i.places ∨ .bankValid ∈ i.places
  · obtain ⟨b, rfl⟩ | rfl | rfl := bank_mem_places hi
    · rintro ws k ⟨⟩
    · intro ws k h
      simp only [script, Script.accessing] at h
      split at h <;> cases h
    · rintro ws k ⟨⟩
      simp [LeaveShadow, Line.places]
  · exact ((script_allowed i).start s).leavesShadow hi

/-- No command writes the shadow at its loop's head. -/
theorem script_loop_leavesShadow {i : Instr} (s : State) (hloop : .loop ∈ i.afters) : ((script i).loop s).LeavesShadow := by
  by_cases hi : .bank ∈ i.places ∨ .bankValid ∈ i.places
  · obtain ⟨b, rfl⟩ | rfl | rfl := bank_mem_places hi
    · simp [Instr.afters] at hloop
    · simp [Instr.afters] at hloop
    · intro ws k h
      simp only [script, Script.replaying] at h
      split at h <;> cases h
      simp [LeaveShadow, Line.places]
  · exact ((script_allowed i).loop s hloop).leavesShadow hi

theorem shadowLines_of_not_writesBank {r : Request} (hr : r.writesBank = false) : shadowLines r = [] := by
  cases r with
  | read => rfl
  | write dev reg n v => exact if_neg (by simpa [Request.writesBank] using hr)

/-- On an Ok answer every command first updates the shadow as `write_byte` does (R150), and leaves it alone after that. -/
theorem script_onOk_shadowLines {i : Instr} {r : Request} {s : State} (v : Word) (hwf : i.wf = true) (hreq : i.request s = some r) :
    ∃ ws k, (script i).onOk r v s = .emit (shadowLines r ++ ws) k ∧ LeaveShadow ws := by
  cases i with
  | rd8 reg | rd8Cap reg | rd16 reg | rd32 reg =>
    cases hreq
    exact ⟨_, _, rfl, by simp [LeaveShadow, Line.places]⟩
  | pollNz reg mask | pollZ reg mask =>
    cases hreq
    simp only [script, Script.polling, shadowLines, List.nil_append]
    split_ifs <;> exact ⟨_, _, rfl, by simp [LeaveShadow, Line.places]⟩
  | wr8 reg imm | wr8Sv reg => exact ⟨[], _, by rw [List.append_nil]; rfl, leaveShadow_nil⟩
  | seqRun => exact ⟨_, _, rfl, by simp [LeaveShadow, Line.places]⟩
  | wr16 reg | wr32 reg | setAddr reg addr =>
    cases hreq
    have hne : reg ≠ 0xFF#8 := fun e => by simp [e, Instr.wf] at hwf
    rw [shadowLines_of_not_writesBank (by simpa [Request.writesBank] using hne)]
    exact ⟨_, _, rfl, by simp [LeaveShadow, Line.places]⟩
  | _ => simp [Instr.request] at hreq

/-- An Ok answer to a write to 0xFF says that the sensor's bank is the byte written, which `write_byte`'s lines then put into BANK. -/
theorem shadowAfter_of_answered {s : State} {cmd : Word} {r : Request} {v : Word} {ws : List Line} (hinv : ShadowInv s)
    (he : s.engine = .running cmd .await) (hb : s.bus = .answered r (.ok v)) (hws : LeaveShadow ws) :
    ShadowAfter (shadowLines r ++ ws) s := by
  cases hr : r.writesBank with
  | false =>
    rw [shadowLines_of_not_writesBank hr]
    exact (shadowAfter_iff_of_leaveShadow hws).2 ((shadowInv_await he (by rw [hb]; rfl) hr).1 hinv)
  | true =>
    cases r with
    | read => cases hr
    | write dev reg n w =>
      obtain rfl : reg = 0xFF#8 := by simpa [Request.writesBank] using hr
      simp only [ShadowInv, he, hb, if_true] at hinv
      have hbank := hinv v rfl
      simp [ShadowAfter, shadowLines, hws.bank_notMem, hbank]

/-- After a failed write to 0xFF, BANK_VALID is cleared (R253). -/
theorem raiseTransport_shadowInv {s : State} {cmd : Word} {r : Request} (hinv : ShadowInv s)
    (he : s.engine = .running cmd .await) (hb : s.bus = .answered r .fail) : ShadowInv (raiseTransport r { s with bus := .idle }) := by
  refine (shadowInv_idle rfl).2 fun hvalid => ?_
  rw [raiseTransport_bankValid, Bool.and_eq_true, Bool.not_eq_true'] at hvalid
  obtain ⟨hs, hr⟩ := hvalid
  exact (shadowInv_await he (by rw [hb]; rfl) hr).1 hinv hs

/-! ## The engine's own turn -/

theorem engineInv_await {s : State} {cmd : Word} (h : EngineInv s) (he : s.engine = .running cmd .await) :
    ∃ i r, decode cmd = .ok i ∧ i.request s = some r ∧ s.bus.request = some r := by
  have hcoherent := h.1
  simp only [EngineCoherent, he] at hcoherent
  obtain ⟨-, -, hawait⟩ := hcoherent
  exact hawait

theorem engineInv_lines {s : State} {cmd : Word} {ws : List Line} {k : After} (h : EngineInv s)
    (he : s.engine = .running cmd (.lines ws k)) : ∃ i, decode cmd = .ok i ∧ k ∈ i.afters := by
  have hcoherent := h.1
  simp only [EngineCoherent, he] at hcoherent
  obtain ⟨-, -, -, i, hd, hk, -⟩ := hcoherent
  exact ⟨i, hd, hk⟩

theorem exec_shadowInv {i : Instr} {s t : State} {cmd : Word} {pos : Pos} (hengine : EngineInv s) (hinv : ShadowInv s)
    (hrun : s.engine = .running cmd pos) (hd : decode cmd = .ok i) (hx : exec i s = .next t) : ShadowInv t := by
  rw [exec_eq_script, Script.exec] at hx
  obtain ⟨t', ht, hcases⟩ := turn_cases s (((script i).start s).run s) (((script i).loop s).run s)
    fun r v t => ((script i).onOk r v t).run t
  obtain rfl : t' = t := by simpa [hx] using ht.symm
  obtain ⟨-, rfl⟩ | ⟨cmd', he, rfl⟩ | ⟨cmd', he, rfl⟩ | ⟨cmd', he, rfl⟩ | ⟨cmd', ws, k, he, -, rfl⟩ := hcases
  · exact hinv
  · exact Deed.run_shadowInv he hinv ((shadowInv_start he).1 hinv) (script_start_leavesShadow i s)
  · cases hrun.symm.trans he
    obtain ⟨i', r, hd', hreq, hbus⟩ := engineInv_await hengine he
    obtain rfl : i' = i := by simpa [hd] using hd'.symm
    obtain ⟨-, e⟩ | ⟨r', v, hb, e⟩ | ⟨r', hb, e⟩ :=
      awaitReply_cases (fun r v t => ((script i').onOk r v t).run t) s <;> rw [e]
    · exact hinv
    · obtain rfl : r' = r := by simpa [hb, Bus.request] using hbus
      have hreq' : i'.request { s with bus := .idle } = some r' := (request_with_bus i' s .idle).trans hreq
      obtain ⟨ws, k, honOk, hws⟩ := script_onOk_shadowLines v (wf_of_decode hd) hreq'
      have hafter : ShadowAfter (shadowLines r' ++ ws) s := shadowAfter_of_answered hinv he hb hws
      rw [honOk]
      exact emit_shadowInv (s := { s with bus := .idle }) k he hafter
    · exact raiseTransport_shadowInv hinv he hb
  · cases hrun.symm.trans he
    obtain ⟨i', hd', hk⟩ := engineInv_lines hengine he
    obtain rfl : i' = i := by simpa [hd] using hd'.symm
    have hagrees := (shadowAfter_iff_of_leaveShadow leaveShadow_nil).1 ((shadowInv_lines he).1 hinv)
    exact Deed.run_shadowInv he hinv hagrees (script_loop_leavesShadow s hk)
  · exact emit_shadowInv k he ((shadowInv_lines he).1 hinv)

/-- A word that is no command's ends where it stands, at its start. -/
theorem complete_illegal_shadowInv {s : State} {cmd : Word} {pos : Pos} {e : Illegal} (hengine : EngineInv s) (hinv : ShadowInv s)
    (he : s.engine = .running cmd pos) (hd : decode cmd = .error e) : ShadowInv (complete .illegal s) := by
  cases pos with
  | start =>
    have hagrees := (shadowInv_start he).1 hinv
    exact (shadowInv_idle rfl).2 hagrees
  | await =>
    obtain ⟨i, r, hok, -⟩ := engineInv_await hengine he
    simp [hd] at hok
  | lines ws k =>
    obtain ⟨i, hok, -⟩ := engineInv_lines hengine he
    simp [hd] at hok

theorem engineTurn_shadowInv {s t : State} (hengine : EngineInv s) (hinv : ShadowInv s) (h : engineTurn s = .next t) :
    ShadowInv t := by
  obtain ⟨-, rfl⟩ | ⟨⟨cmd, pos, e, he, hd⟩, rfl⟩ | ⟨cmd, pos, i, he, hd, hx⟩ := engineTurn_next h
  · exact hinv
  · exact complete_illegal_shadowInv hengine hinv he hd
  · exact exec_shadowInv hengine hinv he hd hx

/-! ## The port -/

/-- A request is in flight only while its command waits for it. -/
theorem await_of_pending {s : State} {r : Request} {p : Transfer} (h : EngineInv s) (hb : s.bus = .pending r p) :
    ∃ cmd i, s.engine = .running cmd .await ∧ decode cmd = .ok i ∧ i.request s = some r := by
  have hcoherent := h.1
  rcases he : s.engine with _ | ⟨cmd, _ | _ | ⟨ws, k⟩⟩
  · simp [EngineCoherent, he, hb] at hcoherent
  · simp [EngineCoherent, he, hb] at hcoherent
  · obtain ⟨i, r', hd, hreq, hbus⟩ := engineInv_await h he
    obtain rfl : r = r' := by simpa [hb, Bus.request] using hbus
    exact ⟨cmd, i, rfl, hd, hreq⟩
  · simp [EngineCoherent, he, hb] at hcoherent

/-- The device a write to 0xFF in flight goes to is the sensor (log 4). -/
def BankWritesReachTheSensor (s : State) : Prop :=
  ∀ dev n v p, s.bus = .pending (.write dev 0xFF n v) p → dev = s.sensorAddr

/-- What the transport does to any request but a write to 0xFF keeps the shadow right, since it keeps the bank. -/
theorem shadowInv_withSensor_bus {s u : State} {cmd : Word} {r : Request} {b : Bus} (hinv : ShadowInv s)
    (he : s.engine = .running cmd .await) (hs : s.bus.request = some r) (hr : r.writesBank = false)
    (hb : b.request = s.bus.request) (hu : u.sensorBank = s.sensorBank) : ShadowInv { s.withSensor u with bus := b } := by
  have hagrees := (shadowInv_await he hs hr).1 hinv
  exact (shadowInv_await (s := { s.withSensor u with bus := b }) he (hb.trans hs) hr).2 fun hvalid =>
    (hagrees hvalid).trans hu.symm

/-- Once the byte of a write to 0xFF is served, now or before, the sensor's bank is that byte. -/
theorem sensorBank_of_served {s : State} {cmd : Word} {dev : DevAddr} {v : Word} {p : Transfer} {mask : BitVec 4} (hinv : ShadowInv s)
    (he : s.engine = .running cmd .await) (hb : s.bus = .pending (.write dev 0xFF#8 .one v) p) (hdev : dev = s.sensorAddr)
    (hmask : mask.getLsbD 0 = true) : v.setWidth 8 = (sensorServes mask (.write dev 0xFF#8 .one v) p s).sensorBank := by
  rw [sensorServes_bankSelect v mask p hdev, hmask]
  cases hp : p.b0 with
  | none => rfl
  | some b => simpa [ShadowInv, he, hb, hp] using hinv

section Pending

variable {i : Instr} {s : State} {r : Request} {p : Transfer}

theorem transportAnswers_sensorBank (a : Answer) (hwf : i.wf = true) (hreq : i.request s = some r) (hb : s.bus = .pending r p)
    (hr : r.writesBank = false) : (transportAnswers a s).sensorBank = s.sensorBank := by
  obtain e | ⟨b, e⟩ | ⟨mask, r', p', b, hb', e⟩ := transportAnswers_cases a s <;> rw [e]
  cases hb.symm.trans hb'
  exact sensorServes_sensorBank mask p hwf hreq hr

theorem transfersByte_sensorBank (k : Nat) (free : Byte) (hwf : i.wf = true) (hreq : i.request s = some r)
    (hb : s.bus = .pending r p) (hr : r.writesBank = false) : (transfersByte k free s).sensorBank = s.sensorBank := by
  obtain e | ⟨b, e⟩ | ⟨r', p', b, hb', e⟩ := transfersByte_cases k free s <;> rw [e]
  cases hb.symm.trans hb'
  exact sensorServes_sensorBank _ p hwf hreq hr

end Pending

theorem transportAnswers_shadowInv {s : State} (a : Answer) (hengine : EngineInv s) (hinv : ShadowInv s)
    (hreaches : BankWritesReachTheSensor s) : ShadowInv (transportAnswers a s) := by
  by_cases hpending : ∃ r p, s.bus = .pending r p
  · obtain ⟨r, p, hb⟩ := hpending
    obtain ⟨cmd, i, he, hd, hreq⟩ := await_of_pending hengine hb
    have hwf := wf_of_decode hd
    cases hr : r.writesBank with
    | false =>
      rw [transportAnswers_frame]
      exact shadowInv_withSensor_bus hinv he (by rw [hb]; rfl) hr (transportAnswers_request a s)
        (transportAnswers_sensorBank a hwf hreq hb hr)
    | true =>
      obtain ⟨dev, v, rfl⟩ := request_of_writesBank hwf hreq hr
      cases a with
      | ok free =>
        have hbank := sensorBank_of_served (mask := 0xF) hinv he hb (hreaches _ _ _ _ hb) rfl
        rw [transportAnswers_ok_write free hb]
        simpa [ShadowInv, State.withSensor, he] using hbank
      | fail took =>
        rw [transportAnswers_fail_write took hb]
        simp [ShadowInv, State.withSensor, he]
  · rw [transportAnswers_of_not_pending a (by simpa using hpending)]
    exact hinv

theorem transfersByte_shadowInv {s : State} (k : Nat) (free : Byte) (hengine : EngineInv s) (hinv : ShadowInv s)
    (hreaches : BankWritesReachTheSensor s) : ShadowInv (transfersByte k free s) := by
  by_cases hpending : ∃ r p, s.bus = .pending r p
  · obtain ⟨r, p, hb⟩ := hpending
    obtain ⟨cmd, i, he, hd, hreq⟩ := await_of_pending hengine hb
    have hwf := wf_of_decode hd
    cases hr : r.writesBank with
    | false =>
      rw [transfersByte_frame]
      exact shadowInv_withSensor_bus hinv he (by rw [hb]; rfl) hr (transfersByte_request k free s)
        (transfersByte_sensorBank k free hwf hreq hb hr)
    | true =>
      obtain ⟨dev, v, rfl⟩ := request_of_writesBank hwf hreq hr
      by_cases hleft : k < Width.one.bytes ∧ p.get k = none
      · obtain ⟨hk, hp⟩ := hleft
        obtain rfl : k = 0 := Nat.lt_one_iff.1 hk
        have hbank := sensorBank_of_served (mask := 1#4 <<< 0) hinv he hb (hreaches _ _ _ _ hb) rfl
        rw [transfersByte_write free hb hk hp]
        simpa [ShadowInv, State.withSensor, he, Transfer.set] using hbank
      · rw [transfersByte_write_nothing_left free hb (by rwa [not_and_or, not_lt] at hleft)]
        exact hinv
  · rw [transfersByte_of_not_pending k free (by simpa using hpending)]
    exact hinv

/-! ## The host and the step -/

theorem csrWrite_shadowInv {s : State} (c : Csr) (w : Word) (hinv : ShadowInv s) : ShadowInv (c.write w s) := by
  obtain e | ⟨v, e⟩ | ⟨he, hidle⟩ := csrWrite_cases c w s
  · rwa [e]
  · rw [e]
    exact hinv
  · have hagrees := (shadowInv_idle he).1 hinv
    obtain e | ⟨f, e⟩ | e | e | e := hidle <;> rw [e]
    · exact (shadowInv_start rfl).2 hagrees
    all_goals exact (shadowInv_idle he).2 hagrees

theorem perform_shadowInv {e : Event} {s t : State} (hengine : EngineInv s) (hinv : ShadowInv s)
    (hreaches : BankWritesReachTheSensor s) (h : perform e s = .next t) : ShadowInv t := by
  cases e with
  | engine => exact engineTurn_shadowInv hengine hinv h
  | host a =>
    obtain ⟨v, rfl⟩ | ⟨c, w, rfl⟩ := hostAccess_next h
    · exact hinv
    · exact csrWrite_shadowInv c w hinv
  | transport a =>
    cases h
    exact transportAnswers_shadowInv a hengine hinv hreaches
  | wire k free =>
    cases h
    exact transfersByte_shadowInv _ free hengine hinv hreaches
  | tick k =>
    cases h
    exact hinv
  | sensor bank reg v =>
    cases h
    unfold sensorChanges
    split_ifs <;> exact hinv
  | reset took k =>
    cases h
    exact (shadowInv_idle rfl).2 fun hvalid => Bool.noConfusion hvalid

/-- Settles O17: the shadow goes wrong only between the moment a byte reaches 0xFF and `write_byte`'s lines, which the invariant knows
of, and where it cannot tell, after a failed write, BANK_VALID is cleared. -/
theorem everyStepKeepsTheBankShadow : Obligations.EveryStepKeepsTheBankShadow := by
  intro s t hengine hinv hreaches h
  obtain ⟨u, hu, rfl⟩ := step_next h
  have hkept : ShadowInv u := perform_shadowInv hengine hinv hreaches hu
  exact ⟨hkept, fun he => (shadowInv_idle he).1 hkept⟩

end Sys2Proof.Machine
end

section
/-! PROOFS. Decode and encode agree (spec/30_encoding.md R90 to R95, R97): a word is a command's encoding exactly where its fields
spell that command, and each check of R92 names exactly its words. -/

namespace Sys2Proof

/-! ## The fields of a command's word -/

/-- The fields of `w` spell command `i`: it is the one its opcode and form flag name, and a field it does not use is 0 (R94, R95).
RSV is left aside. -/
def SpellsCommand (w : Word) (i : Instr) : Prop :=
  ∃ usesReg usesImm, commandOf (opcField w).toNat (formField w) (regField w) (immField w) = some (i, usesReg, usesImm) ∧
    (usesReg = false → regField w = 0) ∧ (usesImm = false → immField w = 0)

open Laws.EncodedOpcode in
/-- The checks 1 and 2 of R92 pass for every command's word. -/
theorem encodedOpcode (i : Instr) : Laws.EncodedOpcode.Statement i :=
  match i with
  | .decTimeout => decTimeout | .encTimeout => encTimeout | .macroPeriod => macroPeriod | .mclkToUs => mclkToUs
  | .usToMclk => usToMclk | .seqDecode => seqDecode | .vcselDec => vcselDec | .vcselEncPre => vcselEncPre
  | .vcselEncFinal => vcselEncFinal | .stepTimeouts => stepTimeouts | .budgetGet => budgetGet | .budgetSet => budgetSet
  | .srlEnc => srlEnc | .srlDec => srlDec | .guardArm => guardArm | .guardCheck => guardCheck
  | .timeoutOccurred => timeoutOccurred | .rd8 r => rd8 r | .rd8Cap r => rd8Cap r | .rd16 r => rd16 r | .rd32 r => rd32 r
  | .wr8 r b => wr8 r b | .wr8Sv r => wr8Sv r | .wr16 r => wr16 r | .wr32 r => wr32 r | .pollNz r m => pollNz r m
  | .pollZ r m => pollZ r m | .seqRun => seqRun | .setAddr r a => setAddr r a

/-- A row of R94 makes the word packed from it spell its command. -/
theorem spellsCommand_pack {opc reg imm : Byte} {f usesReg usesImm : Bool} {i : Instr}
    (h : commandOf opc.toNat f reg imm = some (i, usesReg, usesImm)) (hreg : usesReg = false → reg = 0)
    (himm : usesImm = false → imm = 0) : SpellsCommand (pack opc reg imm f) i :=
  ⟨usesReg, usesImm, by simpa using h, by simpa using hreg, by simpa using himm⟩

/-- Every command's word spells that command: each has its row in R94. -/
theorem spellsCommand_encode (i : Instr) : SpellsCommand (encode i) i := by
  cases i <;> exact spellsCommand_pack rfl (by simp) (by simp)

/-- Each row of R94: the command it names is encoded with that row's opcode and flag, and with the fields the row uses. -/
theorem encode_of_commandOf {opc reg imm : Byte} {f usesReg usesImm : Bool} {i : Instr}
    (h : commandOf opc.toNat f reg imm = some (i, usesReg, usesImm)) (hreg : usesReg = false → reg = 0)
    (himm : usesImm = false → imm = 0) : encode i = pack opc reg imm f := by
  -- The opcode as a number, so that the rows of `commandOf` give it its values.
  have hopc : opc = BitVec.ofNat 8 opc.toNat := by simp
  rw [hopc]
  generalize opc.toNat = n at h
  unfold commandOf at h
  split at h <;> cases h <;> simp_all [encode]

/-- R90 to R95 in one: a word is a command's encoding exactly where RSV is 0 and its fields spell the command. -/
theorem encode_eq_iff (w : Word) (i : Instr) : encode i = w ↔ rsvField w = 0 ∧ SpellsCommand w i := by
  constructor
  · rintro rfl
    exact ⟨(encodedOpcode i).1, spellsCommand_encode i⟩
  · rintro ⟨hrsv, _, _, hrow, hreg, himm⟩
    rw [encode_of_commandOf hrow hreg himm, pack_fields hrsv]

/-! ## What the checks decide -/

/-- Check 1 of R92. -/
theorem decode_unlisted {w : Word} (h : opcodes.contains (opcField w).toNat = false) : decode w = .error .reservedOpcode := by
  simp only [decode, h, Bool.not_false, if_true]

/-- Check 2 of R92. -/
theorem decode_reserved {w : Word} (h : opcodes.contains (opcField w).toNat = true) (hrsv : rsvField w ≠ 0) :
    decode w = .error .reservedBits := by
  simp only [decode, h, Bool.not_true, Bool.false_eq_true, if_false, if_pos hrsv]

/-- Check 3 of R92. -/
theorem decode_unspelled {w : Word} (h : opcodes.contains (opcField w).toNat = true) (hrsv : rsvField w = 0)
    (hspell : ∀ i, ¬ SpellsCommand w i) : decode w = .error .unusedField := by
  simp only [decode, h, hrsv, Bool.not_true, Bool.false_eq_true, if_false, ne_eq, not_true_eq_false]
  split
  · rfl
  · next i usesReg usesImm hrow =>
    refine if_pos (by_contra fun hzero => hspell i ⟨usesReg, usesImm, hrow, ?_⟩)
    simp_all

/-- Check 4 of R92, the last: a command's word is refused only where R97 excludes its register. -/
theorem decode_encode (i : Instr) : decode (encode i) = if i.wf then .ok i else .error .registerRange := by
  obtain ⟨hrsv, hopc⟩ := encodedOpcode i
  obtain ⟨usesReg, usesImm, hrow, hreg, himm⟩ := spellsCommand_encode i
  have hzero : ((!usesReg && regField (encode i) != 0) || (!usesImm && immField (encode i) != 0)) = false := by
    cases usesReg <;> cases usesImm <;> simp_all
  simp only [decode, hopc, hrsv, hrow, hzero, Bool.not_true, Bool.false_eq_true, if_false, ne_eq, not_true_eq_false]

/-- Every word and what becomes of it: the first check of R92 that fails, or its command. -/
theorem decode_cases (w : Word) :
    (opcodes.contains (opcField w).toNat = false ∧ decode w = .error .reservedOpcode) ∨
    (opcodes.contains (opcField w).toNat = true ∧ rsvField w ≠ 0 ∧ decode w = .error .reservedBits) ∨
    (opcodes.contains (opcField w).toNat = true ∧ rsvField w = 0 ∧ (∀ i, encode i ≠ w) ∧ decode w = .error .unusedField) ∨
    (∃ i, encode i = w ∧ i.wf = false ∧ decode w = .error .registerRange) ∨
    ∃ i, encode i = w ∧ i.wf = true ∧ decode w = .ok i := by
  by_cases hcmd : ∃ i, encode i = w
  · obtain ⟨i, rfl⟩ := hcmd
    cases hwf : i.wf with
    | false => exact .inr (.inr (.inr (.inl ⟨i, rfl, hwf, by simp [decode_encode, hwf]⟩)))
    | true => exact .inr (.inr (.inr (.inr ⟨i, rfl, hwf, by simp [decode_encode, hwf]⟩)))
  · have hnone : ∀ i, encode i ≠ w := not_exists.1 hcmd
    cases hopc : opcodes.contains (opcField w).toNat with
    | false => exact .inl ⟨rfl, decode_unlisted hopc⟩
    | true =>
      by_cases hrsv : rsvField w = 0
      · have hspell : ∀ i, ¬ SpellsCommand w i := fun i hi => hnone i ((encode_eq_iff w i).2 ⟨hrsv, hi⟩)
        exact .inr (.inr (.inl ⟨rfl, hrsv, hnone, decode_unspelled hopc hrsv hspell⟩))
      · exact .inr (.inl ⟨rfl, hrsv, decode_reserved hopc hrsv⟩)

/-- A word decodes to a command exactly where it is that command's encoding and the command is well formed. -/
theorem decode_eq_ok_iff {w : Word} {i : Instr} : decode w = .ok i ↔ encode i = w ∧ i.wf = true := by
  constructor
  · intro h
    obtain ⟨-, e⟩ | ⟨-, -, e⟩ | ⟨-, -, -, e⟩ | ⟨j, -, -, e⟩ | ⟨j, hw, hwf, e⟩ := decode_cases w
    all_goals cases h.symm.trans e
    exact ⟨hw, hwf⟩
  · rintro ⟨rfl, hwf⟩
    simp [decode_encode, hwf]

theorem decode_eq_reservedOpcode_iff {w : Word} :
    decode w = .error .reservedOpcode ↔ opcodes.contains (opcField w).toNat = false := by
  refine ⟨fun h => ?_, decode_unlisted⟩
  obtain ⟨hopc, -⟩ | ⟨-, -, e⟩ | ⟨-, -, -, e⟩ | ⟨i, -, -, e⟩ | ⟨i, -, -, e⟩ := decode_cases w
  · exact hopc
  all_goals cases h.symm.trans e

theorem decode_eq_reservedBits_iff {w : Word} :
    decode w = .error .reservedBits ↔ opcodes.contains (opcField w).toNat = true ∧ rsvField w ≠ 0 := by
  refine ⟨fun h => ?_, fun ⟨hopc, hrsv⟩ => decode_reserved hopc hrsv⟩
  obtain ⟨-, e⟩ | ⟨hopc, hrsv, -⟩ | ⟨-, -, -, e⟩ | ⟨i, -, -, e⟩ | ⟨i, -, -, e⟩ := decode_cases w
  case inr.inl => exact ⟨hopc, hrsv⟩
  all_goals cases h.symm.trans e

theorem decode_eq_unusedField_iff {w : Word} :
    decode w = .error .unusedField ↔
      opcodes.contains (opcField w).toNat = true ∧ rsvField w = 0 ∧ ∀ i, encode i ≠ w := by
  refine ⟨fun h => ?_, fun ⟨hopc, hrsv, hnone⟩ =>
    decode_unspelled hopc hrsv fun i hi => hnone i ((encode_eq_iff w i).2 ⟨hrsv, hi⟩)⟩
  obtain ⟨-, e⟩ | ⟨-, -, e⟩ | ⟨hopc, hrsv, hnone, -⟩ | ⟨i, -, -, e⟩ | ⟨i, -, -, e⟩ := decode_cases w
  case inr.inr.inl => exact ⟨hopc, hrsv, hnone⟩
  all_goals cases h.symm.trans e

theorem decode_eq_registerRange_iff {w : Word} :
    decode w = .error .registerRange ↔ ∃ i : Instr, i.wf = false ∧ encode i = w := by
  constructor
  · intro h
    obtain ⟨-, e⟩ | ⟨-, -, e⟩ | ⟨-, -, -, e⟩ | ⟨i, hw, hwf, -⟩ | ⟨i, -, -, e⟩ := decode_cases w
    case inr.inr.inr.inl => exact ⟨i, hwf, hw⟩
    all_goals cases h.symm.trans e
  · rintro ⟨i, hwf, rfl⟩
    simp [decode_encode, hwf]

/-! ## The checks' conditions as numbers -/

theorem opcodes_contains_iff (w : Word) : opcodes.contains (opcField w).toNat = true ↔ w.toNat % 256 ∈ opcodes := by
  have hopc : (opcField w).toNat = w.toNat % 256 := by
    simp [opcField]
  rw [List.contains_iff_mem, hopc]

/-- RSV is 0 exactly in the words below bit 25 (R90). -/
theorem rsvField_eq_zero_iff (w : Word) : rsvField w = 0 ↔ w.toNat < 2 ^ 25 := by
  have hw : w.toNat < 2 ^ 32 := w.isLt
  have hzero : (0 : BitVec 7).toNat = 0 := rfl
  rw [← BitVec.toNat_inj, rsvField, toNat_extractField, hzero]
  omega

/-! ## The statements -/

/-- Settles O2: a command's word spells that command, so with R97's check passed the decoder answers it. -/
theorem decodeReadsBackEveryEncodedCommand : Obligations.DecodeReadsBackEveryEncodedCommand :=
  fun _ hwf => decode_eq_ok_iff.2 ⟨rfl, hwf⟩

/-- Settles O3: a word that decodes spells its command, and its fields and RSV = 0 are all of it. -/
theorem everyLegalWordIsOneCommandsEncoding : Obligations.EveryLegalWordIsOneCommandsEncoding :=
  fun _ _ h => decode_eq_ok_iff.1 h

/-- Settles O4: each check's words, with the opcode's and RSV's conditions as numbers. -/
theorem decodeChecksRunInTheirOrder : Obligations.DecodeChecksRunInTheirOrder := by
  intro w
  have hlisted := opcodes_contains_iff w
  have hrsv := rsvField_eq_zero_iff w
  refine ⟨?_, ?_, ?_, decode_eq_registerRange_iff⟩
  · exact decode_eq_reservedOpcode_iff.trans (Bool.eq_false_iff.trans (not_congr hlisted))
  · exact decode_eq_reservedBits_iff.trans (and_congr hlisted ((not_congr hrsv).trans not_lt))
  · exact decode_eq_unusedField_iff.trans (and_congr hlisted (and_congr_left' hrsv))

/-- Settles O1: each word is its statement's encoding. -/
theorem decoderReadsTheExampleWords : Obligations.DecoderReadsTheExampleWords := by
  simp only [Obligations.DecoderReadsTheExampleWords, decode_eq_ok_iff]
  decide

end Sys2Proof

namespace Sys2Proof.Machine

open Sys2Proof

theorem step_engine {s : State} (h : s.next = .engine) : step s = thenDraw (engineTurn s) := by
  rw [step, h]
  rfl

/-- Settles O5: the engine's event is the turn of the command its word decodes to. -/
theorem stepRunsTheDecodedCommand : Obligations.StepRunsTheDecodedCommand := by
  intro s t cmd pos i hnext he hd hx
  rw [step_engine hnext, engineTurn_ok he hd, hx]
  rfl

/-- Settles O6: the turn is `complete`, which writes STATUS alone. -/
theorem illegalWordsOnlyComplete : Obligations.IllegalWordsOnlyComplete := by
  intro s cmd e hnext he hd
  rw [step_engine hnext, engineTurn_illegal he hd]
  rfl

end Sys2Proof.Machine
end

section
/-! PROOFS. A computing command from its start to its end, and the timing model on top of it: the codec of the timeout registers,
the period `mp`, and the five commands of spec/40_timing_model.md R120 to R131. -/

namespace Sys2Proof.Machine

open Sys2Proof

/-! ## The word of a command without a register -/

theorem encodedAs_of_wf {i : Instr} {n : Nat} (hwf : i.wf = true) (hword : (encode i).toNat = n) : EncodedAs i n True :=
  ⟨hword, fun _ => decode_eq_ok_iff.2 ⟨rfl, hwf⟩, fun h => absurd trivial h⟩

/-! ## A computing command -/

section Computing

variable {i : Instr} {lines : State → Except ErrCode (List Line)} {s : State} {cmd : Word}

theorem exec_computing (hi : script i = .computing lines) (s : State) : exec i s = compute (lines s) s := by
  rw [exec_eq_script, hi, compute_eq_script]

theorem raises_of_computing {e : ErrCode} (hi : script i = .computing lines) (he : s.engine = .running cmd .start)
    (hl : lines s = .error e) : Raises i s e := by
  rw [Raises, exec_computing hi, compute_start _ he, hl]
  rfl

/-- The first line is written in the starting turn. -/
theorem exec_computing_cons {l : Line} {ws : List Line} (hi : script i = .computing lines) (he : s.engine = .running cmd .start)
    (hl : lines s = .ok (l :: ws)) :
    exec i s = .next { l.apply s with engine := .running cmd (.lines ws (.finish .none)) } := by
  have hpos : (l.apply s).engine = .running cmd .start := by rw [Line.apply_engine, he]
  rw [exec_computing hi, compute_start _ he, hl]
  exact congrArg _ ((emit_cons l ws _ s).trans (setPos_of_running _ hpos))

/-- One turn per line and one for the completion. -/
theorem execTimes_computing_cons {l : Line} {ws : List Line} (hi : script i = .computing lines)
    (he : s.engine = .running cmd .start) (hl : lines s = .ok (l :: ws)) :
    execTimes (ws.length + 2) i s = .next { applyAll (l :: ws) s with err := .none, done := true, engine := .idle } := by
  rw [execTimes_succ _ (exec_computing_cons hi he hl), execTimes_lines_finish i rfl, applyAll_with_engine, applyAll]

theorem writesRes0_of_computing {v : Nat} (hi : script i = .computing lines) (he : s.engine = .running cmd .start)
    (hl : lines s = .ok [.res 0 (word v)]) (hv : v < 2 ^ 32) : WritesRes0 i s cmd v :=
  ⟨hv, exec_computing_cons hi he hl, execTimes_computing_cons hi he hl⟩

end Computing

theorem field_zero_of_lt {v : Word} {n : Nat} (h : v.toNat < 2 ^ n) : field v 0 n = v.toNat := by
  rw [field, pow_zero, Nat.div_one, Nat.mod_eq_of_lt h]

/-- R10's check before a computation on the field: an operand that passes it is its field. -/
theorem ite_not_fits (v : Word) (n : Nat) (e : ErrCode) (computed : Nat → Except ErrCode (List Line)) :
    (if !fits v n then .error e else computed (field v 0 n)) = if 2 ^ n ≤ v.toNat then .error e else computed v.toNat := by
  by_cases h : v.toNat < 2 ^ n
  · simp [fits, h, field_zero_of_lt h]
  · simp [fits, h, not_lt.1 h]

/-! ## The least shift (R122) -/

/-- `m` is the least shift that brings `x` into 8 bits. -/
structure IsLeastShift (x m : Nat) : Prop where
  fits : x / 2 ^ m ≤ 255
  least : ∀ k, k < m → 255 < x / 2 ^ k

theorem leastShift_isLeastShift (fuel : Nat) {x : Nat} (h : x < 2 ^ (fuel + 8)) : IsLeastShift x (leastShift fuel x) := by
  induction fuel generalizing x with
  | zero => exact ⟨by rw [leastShift]; omega, fun k hk => absurd hk k.not_lt_zero⟩
  | succ fuel ih =>
    rw [leastShift]
    split_ifs with hx
    · exact ⟨by omega, fun k hk => absurd hk k.not_lt_zero⟩
    · have hhalf : x / 2 < 2 ^ (fuel + 8) := by
        rw [Nat.succ_add, Nat.pow_succ] at h
        exact Nat.div_lt_of_lt_mul (Nat.mul_comm _ 2 ▸ h)
      have hstep (k : Nat) : x / 2 ^ (k + 1) = x / 2 / 2 ^ k := by rw [Nat.pow_succ', Nat.div_div_eq_div_mul]
      obtain ⟨hfits, hleast⟩ := ih hhalf
      refine ⟨by rwa [hstep], fun k hk => ?_⟩
      cases k with
      | zero => omega
      | succ k =>
        rw [hstep]
        exact hleast k (Nat.lt_of_succ_lt_succ hk)

namespace IsLeastShift

variable {x m : Nat}

theorem unique {n : Nat} (hm : IsLeastShift x m) (hn : IsLeastShift x n) : m = n := by
  rcases Nat.lt_trichotomy m n with hlt | heq | hgt
  · exact absurd hm.fits (hn.least m hlt).not_ge
  · exact heq
  · exact absurd hn.fits (hm.least n hgt).not_ge

theorem le_eight (h : IsLeastShift x m) (hx : x < 65536) : m ≤ 8 := by
  by_contra hm
  have := h.least 8 (by omega)
  omega

theorem eq_zero (h : IsLeastShift x m) (hx : x ≤ 255) : m = 0 := by
  by_contra hm
  have := h.least 0 (by omega)
  omega

/-- Where there is a shift, the mantissa uses its top bit. -/
theorem le_mantissa (h : IsLeastShift x m) (hm : 0 < m) : 128 ≤ x / 2 ^ m := by
  obtain ⟨k, rfl⟩ := Nat.exists_eq_succ_of_ne_zero hm.ne'
  have hk := h.least k k.lt_succ_self
  rw [Nat.pow_succ, ← Nat.div_div_eq_div_mul]
  omega

/-- Cutting off the bits that are shifted out leaves the least shift as it is. -/
theorem truncated (h : IsLeastShift x m) : IsLeastShift (x / 2 ^ m * 2 ^ m) m := by
  refine ⟨by rw [Nat.mul_div_cancel _ (Nat.two_pow_pos m)]; exact h.fits, fun k hk => ?_⟩
  have htop := h.le_mantissa (by omega)
  obtain ⟨d, rfl⟩ := Nat.exists_eq_add_of_lt hk
  calc 255 < 128 * 2 := by norm_num
    _ ≤ x / 2 ^ (k + d + 1) * 2 ^ (d + 1) := Nat.mul_le_mul htop (Nat.le_self_pow d.succ_ne_zero 2)
    _ = x / 2 ^ (k + d + 1) * 2 ^ (k + d + 1) / 2 ^ k := by
        rw [show 2 ^ (k + d + 1) = 2 ^ (d + 1) * 2 ^ k by rw [← Nat.pow_add]; congr 1; omega, ← Nat.mul_assoc,
          Nat.mul_div_cancel _ (Nat.two_pow_pos k)]

/-- No 8-bit mantissa with any shift lies between `x` and `x` without the bits shifted out. -/
theorem mul_pow_le_truncated (h : IsLeastShift x m) {l k : Nat} (hl : l ≤ 255) (hx : l * 2 ^ k ≤ x) :
    l * 2 ^ k ≤ x / 2 ^ m * 2 ^ m := by
  rcases Nat.lt_or_ge k m with hkm | hmk
  · have htop := h.le_mantissa (by omega)
    calc l * 2 ^ k ≤ 128 * 2 * 2 ^ k := Nat.mul_le_mul_right _ (by omega)
      _ = 128 * 2 ^ (k + 1) := by rw [Nat.pow_succ']; omega
      _ ≤ x / 2 ^ m * 2 ^ m := Nat.mul_le_mul htop (Nat.pow_le_pow_right (by norm_num) hkm)
  · obtain ⟨d, rfl⟩ := Nat.exists_eq_add_of_le' hmk
    rw [Nat.pow_add, ← Nat.mul_assoc] at hx ⊢
    exact Nat.mul_le_mul_right _ ((Nat.le_div_iff_mul_le (Nat.two_pow_pos m)).2 hx)

end IsLeastShift

/-! ## The timeout codec (R121, R122) -/

theorem shift_of_code (m : Nat) {l : Nat} (hl : l ≤ 255) : (m * 256 + l) / 256 = m := by omega

theorem mantissa_of_code (m : Nat) {l : Nat} (hl : l ≤ 255) : (m * 256 + l) % 256 = l := by omega

theorem decTo_code (m : Nat) {l : Nat} (hl : l ≤ 255) : decTo (m * 256 + l) = l * 2 ^ m + 1 := by
  rw [decTo, mantissa_of_code m hl, shift_of_code m hl]

theorem encTo_of_isLeastShift {x m : Nat} (h : IsLeastShift x m) (hx : x < 65535) : encTo (x + 1) = m * 256 + x / 2 ^ m := by
  have hsearch : leastShift 16 x = m := (leastShift_isLeastShift 16 (by omega)).unique h
  simp [encTo, hsearch]

/-- A count as a register holds it: the shift, the register, and what the register decodes to. -/
theorem exists_encTo {t : Nat} (hpos : 1 ≤ t) (ht : t ≤ 65535) :
    ∃ m, IsLeastShift (t - 1) m ∧ encTo t = m * 256 + (t - 1) / 2 ^ m ∧
      decTo (encTo t) = (t - 1) / 2 ^ m * 2 ^ m + 1 := by
  have hm := leastShift_isLeastShift 16 (x := t - 1) (by omega)
  have henc := encTo_of_isLeastShift hm (by omega)
  rw [Nat.sub_add_cancel hpos] at henc
  exact ⟨_, hm, henc, by rw [henc, decTo_code _ hm.fits]⟩

theorem decTo_encTo_le {t : Nat} (hpos : 1 ≤ t) (ht : t ≤ 65535) : decTo (encTo t) ≤ t := by
  obtain ⟨m, -, -, hdec⟩ := exists_encTo hpos ht
  have := Nat.div_mul_le_self (t - 1) (2 ^ m)
  omega

theorem decTo_le_decTo_encTo {t r : Nat} (hpos : 1 ≤ t) (ht : t ≤ 65535) (hr : decTo r ≤ t) : decTo r ≤ decTo (encTo t) := by
  obtain ⟨m, hm, -, hdec⟩ := exists_encTo hpos ht
  rw [hdec]
  have hle : r % 256 * 2 ^ (r / 256) ≤ t - 1 := Nat.le_sub_one_of_lt hr
  exact Nat.succ_le_succ (hm.mul_pow_le_truncated (by omega) hle)

theorem sub_decTo_encTo_lt {t : Nat} (hpos : 1 ≤ t) (ht : t ≤ 65535) : t - decTo (encTo t) < 2 ^ (encTo t / 256) := by
  obtain ⟨m, hm, henc, hdec⟩ := exists_encTo hpos ht
  have hrest := Nat.mod_lt (t - 1) (Nat.two_pow_pos m)
  have hsplit := Nat.div_add_mod' (t - 1) (2 ^ m)
  rw [hdec, henc, shift_of_code m hm.fits]
  omega

theorem decTo_encTo_eq_self {t : Nat} (hpos : 1 ≤ t) (ht : t ≤ 256) : decTo (encTo t) = t := by
  obtain ⟨m, hm, -, hdec⟩ := exists_encTo hpos (by omega)
  obtain rfl := hm.eq_zero (by omega)
  omega

theorem encTo_decTo_encTo {t : Nat} (hpos : 1 ≤ t) (ht : t ≤ 65535) : encTo (decTo (encTo t)) = encTo t := by
  obtain ⟨m, hm, henc, hdec⟩ := exists_encTo hpos ht
  have hle := Nat.div_mul_le_self (t - 1) (2 ^ m)
  rw [hdec, encTo_of_isLeastShift hm.truncated (by omega), Nat.mul_div_cancel _ (Nat.two_pow_pos m), henc]

theorem encTo_lt {t : Nat} (ht : t ≤ 65535) : encTo t < 2 ^ 32 := by
  rcases Nat.eq_zero_or_pos t with rfl | hpos
  · decide
  · obtain ⟨m, hm, henc, -⟩ := exists_encTo hpos ht
    have hshift := hm.le_eight (by omega)
    have hmantissa := hm.fits
    omega

/-- Settles O40: each law from the least shift that the encoder finds. -/
theorem timeoutCodecLaws : Obligations.TimeoutCodecLaws :=
  ⟨fun _ hpos ht => ⟨Nat.succ_pos _, decTo_encTo_le hpos ht⟩,
    fun _ hpos ht => ⟨fun _ _ hr => decTo_le_decTo_encTo hpos ht hr, sub_decTo_encTo_lt hpos ht⟩,
    fun _ hpos ht => decTo_encTo_eq_self hpos ht,
    fun _ hpos ht => encTo_decTo_encTo hpos ht,
    ⟨rfl, rfl⟩⟩

/-! ## The period `mp` (R120) -/

theorem mp_eq (p : Nat) : mp p = (2304 * p * 1655 + 500) / 1000 := rfl

/-- One PCLK more lengthens the period by 3813.12 ns before rounding, so the rounded period grows too. -/
theorem mp_strictMono : StrictMono mp := by
  intro p q h
  rw [mp_eq, mp_eq]
  omega

theorem mp_eq_zero_iff (p : Nat) : mp p = 0 ↔ p = 0 :=
  mp_strictMono.injective.eq_iff' rfl

/-- Settles O41: the formula is the definition, and growth from 0 leaves 0 to the period of 0 alone. -/
theorem macroPeriodIsStrictlyIncreasing : Obligations.MacroPeriodIsStrictlyIncreasing :=
  ⟨fun p _ => mp_eq p, fun _ _ h _ => mp_strictMono h, fun p _ => mp_eq_zero_iff p⟩

/-- A nonzero period is at least that of one PCLK, so dividing by it outweighs the factor 1000 (R131). -/
theorem u2m_lt {u p : Nat} (hu : u < 2 ^ 32) (hp : p ≠ 0) : u2m u p < 2 ^ 32 := by
  have hone : mp 1 ≤ mp p := mp_strictMono.monotone (Nat.one_le_iff_ne_zero.2 hp)
  have hmp : mp 1 = 3813 := by decide
  rw [u2m, Nat.div_lt_iff_lt_mul (by omega)]
  omega

/-! ## The commands' checks on the operands' values -/

theorem decTimeoutLines_eq (s : State) : decTimeoutLines s =
    if 0x10000 ≤ s.arg.r0.toNat then .error .range
    else if 0xFFFF < decTo s.arg.r0.toNat then .error .range
    else .ok [.res 0 (word (decTo s.arg.r0.toNat))] :=
  ite_not_fits s.arg.r0 16 _ fun r => if 0xFFFF < decTo r then .error .range else .ok [.res 0 (word (decTo r))]

theorem encTimeoutLines_eq (s : State) : encTimeoutLines s =
    if 0x10000 ≤ s.arg.r0.toNat then .error .range else .ok [.res 0 (word (encTo s.arg.r0.toNat))] :=
  ite_not_fits s.arg.r0 16 _ fun t => .ok [.res 0 (word (encTo t))]

theorem macroPeriodLines_eq (s : State) : macroPeriodLines s =
    if 256 ≤ s.arg.r0.toNat then .error .range else .ok [.res 0 (word (mp s.arg.r0.toNat))] :=
  ite_not_fits s.arg.r0 8 _ fun p => .ok [.res 0 (word (mp p))]

theorem mclkToUsLines_eq (bias : M2uBias) (s : State) : mclkToUsLines bias s =
    if 256 ≤ s.arg.r1.toNat then .error .range
    else if 2 ^ 32 ≤ m2u bias s.arg.r0.toNat s.arg.r1.toNat then .error .range
    else .ok [.res 0 (word (m2u bias s.arg.r0.toNat s.arg.r1.toNat))] :=
  ite_not_fits s.arg.r1 8 _ fun p =>
    if 2 ^ 32 ≤ m2u bias s.arg.r0.toNat p then .error .range else .ok [.res 0 (word (m2u bias s.arg.r0.toNat p))]

theorem usToMclkLines_eq (s : State) : usToMclkLines s =
    if 256 ≤ s.arg.r1.toNat then .error .range
    else if mp s.arg.r1.toNat = 0 then .error .div0
    else .ok [.res 0 (word (u2m s.arg.r0.toNat s.arg.r1.toNat))] :=
  ite_not_fits s.arg.r1 8 _ fun p => if mp p = 0 then .error .div0 else .ok [.res 0 (word (u2m s.arg.r0.toNat p))]

/-! ## The statements -/

/-- Settles O35: the three branches are those of the pseudocode, on the operand's value. -/
theorem decTimeoutWritesTheDecodedCount : Obligations.DecTimeoutWritesTheDecodedCount := by
  refine ⟨encodedAs_of_wf rfl rfl, fun s cmd he => ?_⟩
  have hlines := decTimeoutLines_eq s
  split_ifs with hwide hcount
  · exact raises_of_computing rfl he (hlines.trans (if_pos hwide))
  · rw [if_neg hwide] at hlines
    exact raises_of_computing rfl he (hlines.trans (if_pos hcount))
  · rw [if_neg hwide] at hlines
    exact writesRes0_of_computing rfl he (hlines.trans (if_neg hcount)) (by omega)

/-- Settles O36: the encoder's search finds the least shift. -/
theorem encTimeoutWritesTheLeastShift : Obligations.EncTimeoutWritesTheLeastShift := by
  refine ⟨encodedAs_of_wf rfl rfl, fun s cmd he => ?_⟩
  have hlines := encTimeoutLines_eq s
  by_cases hwide : 0x10000 ≤ s.arg.r0.toNat
  · rw [if_pos hwide] at hlines ⊢
    exact raises_of_computing rfl he hlines
  rw [if_neg hwide] at hlines ⊢
  have hwrites : WritesRes0 .encTimeout s cmd (encTo s.arg.r0.toNat) :=
    writesRes0_of_computing rfl he hlines (encTo_lt (by omega))
  split_ifs with hzero
  · rwa [hzero] at hwrites
  · obtain ⟨m, hm, henc, -⟩ := exists_encTo (Nat.pos_of_ne_zero hzero) (by omega)
    exact ⟨m, hm.fits, hm.least, henc ▸ hwrites⟩

/-- Settles O37: the period of an 8-bit operand is below 2^32. -/
theorem macroPeriodWritesThePeriod : Obligations.MacroPeriodWritesThePeriod := by
  refine ⟨encodedAs_of_wf rfl rfl, fun s cmd he => ?_⟩
  have hlines := macroPeriodLines_eq s
  split_ifs with hwide
  · exact raises_of_computing rfl he (hlines.trans (if_pos hwide))
  · exact writesRes0_of_computing rfl he (hlines.trans (if_neg hwide)) (by omega)

/-- Settles O38: under the default bias `m2u` is the statement's quotient. -/
theorem mclkToUsRoundsHalfUp : Obligations.MclkToUsRoundsHalfUp := by
  refine ⟨encodedAs_of_wf rfl rfl, fun s cmd he => ?_⟩
  intro v
  have hlines : mclkToUsLines Config.m2uBias s =
      if 256 ≤ s.arg.r1.toNat then .error .range else if 2 ^ 32 ≤ v then .error .range else .ok [.res 0 (word v)] :=
    mclkToUsLines_eq Config.m2uBias s
  split_ifs with hwide hlarge
  · exact raises_of_computing rfl he (hlines.trans (if_pos hwide))
  · rw [if_neg hwide] at hlines
    exact raises_of_computing rfl he (hlines.trans (if_pos hlarge))
  · rw [if_neg hwide] at hlines
    exact writesRes0_of_computing rfl he (hlines.trans (if_neg hlarge)) (not_le.1 hlarge)

/-- Settles O39: the divisor is 0 exactly for a period of 0, and every other quotient fits RES0. -/
theorem usToMclkDividesByThePeriod : Obligations.UsToMclkDividesByThePeriod := by
  refine ⟨encodedAs_of_wf rfl rfl, fun s cmd he => ?_⟩
  intro q
  have hlines := usToMclkLines_eq s
  simp only [mp_eq_zero_iff] at hlines
  split_ifs with hwide hzero
  · exact raises_of_computing rfl he (hlines.trans (if_pos hwide))
  · rw [if_neg hwide] at hlines
    exact raises_of_computing rfl he (hlines.trans (if_pos hzero))
  · rw [if_neg hwide] at hlines
    exact writesRes0_of_computing rfl he (hlines.trans (if_neg hzero)) (u2m_lt s.arg.r0.isLt hzero)

end Sys2Proof.Machine
end

section
/-! PROOFS. A command's deed as one turn and as the turns its lines take, and the transport commands on top of it: reads, writes and
the change of the device's address (spec/41_sequencer.md R150 to R158, R160). -/

namespace Sys2Proof.Machine

open Sys2Proof

/-! ## The word of a command with operands -/

/-- A command's word is its packed number, legal exactly where R97's check passes. -/
theorem encodedAs_of_wf_iff {i : Instr} {n : Nat} {legal : Prop} (hword : (encode i).toNat = n) (hlegal : i.wf = true ↔ legal) :
    EncodedAs i n legal :=
  ⟨hword, fun h => decode_eq_ok_iff.2 ⟨rfl, hlegal.2 h⟩,
    fun h => decode_eq_registerRange_iff.2 ⟨i, Bool.eq_false_iff.2 fun hwf => h (hlegal.1 hwf), rfl⟩⟩

/-! ## The deed of a turn -/

section Turn

variable {i : Instr} {s : State} {cmd : Word} {d : Deed}

theorem exec_start (hd : (script i).start s = d) (he : s.engine = .running cmd .start) : exec i s = .next (d.run s) := by
  rw [exec_eq_script, Script.exec, turn_start _ _ _ he, hd]

theorem exec_loop (hd : (script i).loop s = d) (he : s.engine = .running cmd (.lines [] .loop)) : exec i s = .next (d.run s) := by
  rw [exec_eq_script, Script.exec, turn_loop _ _ _ he, hd]

theorem exec_answered_ok {r : Request} {v : Word} (hd : (script i).onOk r v { s with bus := .idle } = d)
    (he : s.engine = .running cmd .await) (hb : s.bus = .answered r (.ok v)) :
    exec i s = .next (d.run { s with bus := .idle }) := by
  rw [exec_eq_script, Script.exec, turn_await _ _ _ he, awaitReply, hb, ← hd]

/-- R253, for every command alike: what the failed request was decides BANK_VALID. -/
theorem raisesTransport_of_answered_fail (i : Instr) {r : Request} (he : s.engine = .running cmd .await)
    (hb : s.bus = .answered r .fail) : RaisesTransport i s r := by
  have hraise : exec i s = .next (raiseTransport r { s with bus := .idle }) := by
    rw [exec_eq_script, Script.exec, turn_await _ _ _ he, awaitReply, hb]
  unfold RaisesTransport
  rw [hraise]
  cases r with
  | read => simp [raiseTransport, complete, Request.writesBank]
  | write => rfl

end Turn

/-! ## What a deed's turn and the turns after it do -/

section Deeds

variable {i : Instr} {s t : State} {cmd : Word} {pos : Pos} {l : Line} {ws : List Line}

theorem exec_of_issue {r : Request} (hx : exec i s = .next ((Deed.issue r).run t)) (he : t.engine = .running cmd pos) :
    exec i s = .next { t with bus := .pending r .none, engine := .running cmd .await } :=
  hx.trans (congrArg _ (setPos_of_running (s := { t with bus := .pending r .none }) .await he))

/-- The first line is written in the deed's own turn. -/
theorem exec_of_emit_cons {k : After} (hx : exec i s = .next ((Deed.emit (l :: ws) k).run t)) (he : t.engine = .running cmd pos) :
    exec i s = .next { l.apply t with engine := .running cmd (.lines ws k) } := by
  have hpos : (l.apply t).engine = .running cmd pos := (Line.apply_engine l t).trans he
  exact hx.trans (congrArg _ ((emit_cons l ws k t).trans (setPos_of_running _ hpos)))

/-- One turn per line up to the loop's head. -/
theorem execTimes_of_emit_loop (hx : exec i s = .next ((Deed.emit (l :: ws) .loop).run t)) (he : t.engine = .running cmd pos) :
    execTimes (ws.length + 1) i s = .next { applyAll (l :: ws) t with engine := .running cmd (.lines [] .loop) } := by
  rw [execTimes_succ _ (exec_of_emit_cons hx he), execTimes_lines i rfl, applyAll_with_engine, applyAll]

/-- One turn per line and one for the completion. -/
theorem execTimes_of_emit_finish {e : ErrCode} (hx : exec i s = .next ((Deed.emit (l :: ws) (.finish e)).run t))
    (he : t.engine = .running cmd pos) :
    execTimes (ws.length + 2) i s = .next { applyAll (l :: ws) t with err := e, done := true, engine := .idle } := by
  rw [execTimes_succ _ (exec_of_emit_cons hx he), execTimes_lines_finish i rfl, applyAll_with_engine, applyAll]

end Deeds

theorem issues_of_start {i : Instr} {s : State} {cmd : Word} {r : Request} (he : s.engine = .running cmd .start)
    (hd : (script i).start s = .issue r) : Issues i s cmd r :=
  exec_of_issue (exec_start hd he) he

/-! ## The statements -/

/-- Settles O55: the reads differ in their request's width, and RD8.CAP in the lines after RES0's. -/
theorem readsIssueAndDeliver : Obligations.ReadsIssueAndDeliver := by
  intro s cmd reg
  refine ⟨encodedAs_of_wf_iff ?rd8 (by simp [Instr.wf]), encodedAs_of_wf_iff ?rd8Cap (by simp [Instr.wf]),
    encodedAs_of_wf_iff ?rd16 (by simp [Instr.wf]), encodedAs_of_wf_iff ?rd32 (by simp [Instr.wf]),
    fun i r _ => raisesTransport_of_answered_fail i,
    fun he => ⟨issues_of_start he rfl, issues_of_start he rfl, issues_of_start he rfl, issues_of_start he rfl⟩,
    fun r v he hb => ⟨fun i hi => ?deliver, ?capture⟩⟩
  case rd8 | rd8Cap | rd16 | rd32 => simp [encode, toNat_pack]
  case deliver =>
    have hx : exec i s = .next ((Deed.emit [.res 0 v] (.finish .none)).run { s with bus := .idle }) := by
      obtain rfl | rfl | rfl := hi <;> exact exec_answered_ok rfl he hb
    exact ⟨exec_of_emit_cons hx he, execTimes_of_emit_finish hx he⟩
  case capture =>
    have hx := exec_answered_ok (i := .rd8Cap reg) rfl he hb
    exact ⟨exec_of_emit_cons hx he, execTimes_of_emit_finish hx he⟩

/-- Settles O56: the writes differ in the checks before their request, and in `write_byte`'s lines after an Ok. -/
theorem writesIssueAndKeepTheShadow : Obligations.WritesIssueAndKeepTheShadow := by
  intro s cmd reg imm
  refine ⟨encodedAs_of_wf_iff ?wr8 (by simp [Instr.wf]), encodedAs_of_wf_iff ?wr8Sv (by simp [Instr.wf]),
    encodedAs_of_wf_iff ?wr16 (by simp [Instr.wf]), encodedAs_of_wf_iff ?wr32 (by simp [Instr.wf]),
    fun i r _ => raisesTransport_of_answered_fail i,
    fun he => ⟨issues_of_start he rfl, fun hv => issues_of_start he ?captured, fun hv => exec_start (d := .raise .illegal) ?uncaptured he,
      fun hn => issues_of_start he ?narrow, fun hw => exec_start (d := .raise .range) ?wide he, issues_of_start he rfl⟩,
    fun d a n w v he hb => ⟨fun i hi => ?completes, fun i hi => ?shadow⟩⟩
  case wr8 | wr8Sv | wr16 | wr32 => simp [encode, toNat_pack]
  case captured | uncaptured => simp [script, Script.accessing, hv]
  case narrow => simp [script, Script.accessing, fits, hn]
  case wide => simp [script, Script.accessing, fits, not_lt.2 hw]
  case completes =>
    show exec i s = .next ((Deed.emit [] (.finish .none)).run { s with bus := .idle })
    obtain rfl | rfl | ⟨hi, ha⟩ := hi
    · exact exec_answered_ok rfl he hb
    · exact exec_answered_ok rfl he hb
    · have hnone : shadowLines (.write d a n w) = [] := if_neg ha
      rw [← hnone]
      obtain rfl | rfl := hi <;> exact exec_answered_ok rfl he hb
  case shadow =>
    obtain ⟨hi, rfl⟩ := hi
    have hx : exec i s = .next ((Deed.emit [.bank (w.setWidth 8), .bankValid] (.finish .none)).run { s with bus := .idle }) := by
      obtain rfl | rfl := hi <;> exact exec_answered_ok rfl he hb
    exact ⟨exec_of_emit_cons hx he, execTimes_of_emit_finish hx he⟩

/-- R160's `addr & 0x7F`, as a word, is the address modulo 128. -/
theorem zext_and_7F_toNat (addr : Byte) : (zext (addr &&& 0x7F)).toNat = addr.toNat % 128 := by
  have hmask : addr.toNat &&& 0x7F = addr.toNat % 128 := Nat.and_two_pow_sub_one_eq_mod addr.toNat 7
  rw [zext, BitVec.toNat_setWidth_of_le (by decide), BitVec.toNat_and]
  exact hmask

/-- Settles O57: the byte sent is masked to 7 bits, DEV_ADDR is cut to 7 bits, and both are the address modulo 128. -/
theorem setAddrMovesTheDeviceAfterTheWrite : Obligations.SetAddrMovesTheDeviceAfterTheWrite := by
  intro s cmd reg addr
  refine ⟨encodedAs_of_wf_iff ?word (by simp [Instr.wf]), fun r => raisesTransport_of_answered_fail _,
    fun he => ⟨_, zext_and_7F_toNat addr, issues_of_start he rfl⟩,
    fun r v he hb => ⟨addr.setWidth 7, BitVec.toNat_setWidth 7 addr, ?moved⟩⟩
  case word => simp [encode, toNat_pack]
  case moved =>
    have hx := exec_answered_ok (i := .setAddr reg addr) rfl he hb
    exact ⟨exec_of_emit_cons hx he, execTimes_of_emit_finish hx he⟩

end Sys2Proof.Machine
end

section
/-! PROOFS. SEQ_RUN turn by turn, and as one run in which the transport answers every write Ok (spec/41_sequencer.md R150, R159,
spec/20_memory.md R60, R65). -/

namespace Sys2Proof.Machine

open Sys2Proof

/-! ## SEQ_RUN's deeds -/

theorem seqRun_loop_entry {s : State} {reg b : Byte} (h : s.tuning[s.seqPc.toNat]? = some (reg, b)) :
    (script .seqRun).loop s = .issue (.write s.devAddr reg .one (zext b)) := by
  simp only [script, Script.replaying, h]

theorem seqRun_loop_end {s : State} (h : s.tuning.length ≤ s.seqPc.toNat) :
    (script .seqRun).loop s = .emit [.cfgValid true, .res 0 (word s.tuning.length)] (.finish .none) := by
  simp only [script, Script.replaying, List.getElem?_eq_none h]

theorem seqRun_onOk_below (dev : DevAddr) {reg : Byte} (n : Width) (w v : Word) (s : State) (h : reg ≠ 0xFF) :
    (script .seqRun).onOk (.write dev reg n w) v s = .emit [.seqPc (s.seqPc + 1)] .loop := by
  have hnone : shadowLines (.write dev reg n w) = [] := if_neg h
  simp only [script, Script.replaying, hnone, List.nil_append]

theorem seqRun_onOk_bank (dev : DevAddr) (n : Width) (w v : Word) (s : State) :
    (script .seqRun).onOk (.write dev 0xFF n w) v s =
      .emit [.bank (w.setWidth 8), .bankValid, .seqPc (s.seqPc + 1)] .loop := rfl

/-- Settles O58: each position's deed, and the turns that its lines take. -/
theorem seqRunWritesTheEntryItStandsAt : Obligations.SeqRunWritesTheEntryItStandsAt := by
  refine ⟨encodedAs_of_wf rfl rfl, fun s cmd => ⟨fun he => ?start, fun he => ⟨fun reg b hentry => ?entry, fun hend => ?tableEnd⟩,
    fun r => raisesTransport_of_answered_fail _, fun d reg n w v he hb => ⟨fun hreg => ?below, ?bank⟩⟩⟩
  case start =>
    have hx := exec_start (i := .seqRun) rfl he
    exact ⟨exec_of_emit_cons hx he, execTimes_of_emit_loop hx he⟩
  case entry => exact exec_of_issue (exec_loop (seqRun_loop_entry hentry) he) he
  case tableEnd =>
    have hx := exec_loop (seqRun_loop_end hend) he
    exact ⟨exec_of_emit_cons hx he, execTimes_of_emit_finish hx he⟩
  case below => exact exec_of_emit_cons (exec_answered_ok (seqRun_onOk_below d n w v _ hreg) he hb) he
  case bank =>
    rintro rfl
    have hx := exec_answered_ok (seqRun_onOk_bank d n w v _) he hb
    exact ⟨exec_of_emit_cons hx he, execTimes_of_emit_loop hx he⟩

/-! ## Serving looks at the sensor alone -/

theorem sensorTake_withSensor (reg b : Byte) (s u : State) :
    sensorTake reg b (s.withSensor u) = s.withSensor (sensorTake reg b u) := by
  by_cases h : reg = 0xFF#8
  · simp only [sensorTake, h, if_true]
    rfl
  · simp only [sensorTake, h, if_false]
    rfl

theorem takeBytes_withSensor (bs : List Byte) (reg : Byte) (took : BitVec 4) (s u : State) :
    takeBytes bs reg took (s.withSensor u) = s.withSensor (takeBytes bs reg took u) := by
  induction bs generalizing reg took u with
  | nil => rfl
  | cons b bs ih =>
    rw [takeBytes, takeBytes, ← ih]
    split_ifs
    · rw [sensorTake_withSensor]
    · rfl

theorem sensorServes_withSensor (took : BitVec 4) (r : Request) (p : Transfer) (s u : State) :
    sensorServes took r p (s.withSensor u) = s.withSensor (sensorServes took r p u) := by
  cases r with
  | read dev reg n => rfl
  | write dev reg n v =>
    by_cases h : dev = u.sensorAddr
    · rw [sensorServes_here (s := u) took reg n v p h, sensorServes_here (s := s.withSensor u) took reg n v p h,
        takeBytes_withSensor]
    · rw [sensorServes_elsewhere (s := u) took reg n v p h, sensorServes_elsewhere (s := s.withSensor u) took reg n v p h]

/-- A request is served alike in two states with the same sensor. -/
theorem sensorServes_of_sensor {s u : State} (took : BitVec 4) (r : Request) (p : Transfer) (h : s = s.withSensor u) :
    sensorServes took r p s = s.withSensor (sensorServes took r p u) :=
  (congrArg _ h).trans (sensorServes_withSensor took r p s u)

/-! ## Runs in which the transport answers every request Ok -/

/-- From `s` some number of Ok rounds of command `i` issues exactly the requests `rs`, in this order, and leads to `t`. -/
def OkRun (i : Instr) (s : State) (rs : List Request) (t : State) : Prop :=
  ∃ n, okRequests n i s = rs ∧ okRounds n i s = t

namespace OkRun

variable {i : Instr} {s t u : State} {cmd : Word} {rs rs' : List Request}

theorem refl (i : Instr) (s : State) : OkRun i s [] s := ⟨0, rfl, rfl⟩

theorem trans (h : OkRun i s rs t) (h' : OkRun i t rs' u) : OkRun i s (rs ++ rs') u := by
  obtain ⟨m, rfl, rfl⟩ := h
  induction m generalizing s with
  | zero => exact h'
  | succ m ih =>
    obtain ⟨n, hrequests, hrounds⟩ := ih h'
    exact ⟨n + 1, by simp [okRequests, hrequests], hrounds⟩

/-- One round. -/
theorem of_exec (hx : exec i s = .next t) : OkRun i s (issued i s) (transportAnswers (.ok 0) t) :=
  ⟨1, by simp [okRequests], by simp [okRounds, okRound, hx]⟩

/-- A turn that issues nothing. -/
theorem quiet (hx : exec i s = .next t) (hb : t.bus = .idle) : OkRun i s [] t := by
  have hissued : issued i s = [] := by simp [issued, hx, hb]
  have hanswer : transportAnswers (.ok 0) t = t := transportAnswers_of_not_pending _ (by simp [hb])
  simpa only [hissued, hanswer] using of_exec hx

/-- A turn that issues a write, and the Ok answer to it. -/
theorem write {dev : DevAddr} {reg : Byte} {n : Width} {v : Word} {pos : Pos} (hb : s.bus = .idle)
    (he : s.engine = .running cmd pos) (hx : exec i s = .next ((Deed.issue (.write dev reg n v)).run s)) :
    OkRun i s [.write dev reg n v]
      { s.withSensor (sensorServes 0xF (.write dev reg n v) .none s) with
        bus := .answered (.write dev reg n v) (.ok 0), engine := .running cmd .await } := by
  have hturn := exec_of_issue hx he
  have hissued : issued i s = [.write dev reg n v] := by simp [issued, hturn, hb]
  have hanswer : transportAnswers (.ok 0) { s with bus := .pending (.write dev reg n v) .none, engine := .running cmd .await } =
      { s.withSensor (sensorServes 0xF (.write dev reg n v) .none s) with
        bus := .answered (.write dev reg n v) (.ok 0), engine := .running cmd .await } := by
    rw [transportAnswers_ok_write 0 rfl, sensorServes_of_sensor (u := s) _ _ _ rfl]
    rfl
  simpa only [hissued, hanswer] using of_exec hturn

/-- Lines issue nothing. -/
theorem lines {ws : List Line} {k : After} (hb : s.bus = .idle) (he : s.engine = .running cmd (.lines ws k)) :
    OkRun i s [] { applyAll ws s with engine := .running cmd (.lines [] k) } := by
  induction ws generalizing s with
  | nil =>
    rw [applyAll, ← he]
    exact refl i s
  | cons l ws ih =>
    have hline : OkRun i s [] { l.apply s with engine := .running cmd (.lines ws k) } :=
      quiet (exec_lines_cons i he) ((Line.apply_bus l s).trans hb)
    have hrest := ih (s := { l.apply s with engine := .running cmd (.lines ws k) }) ((Line.apply_bus l s).trans hb) rfl
    rw [applyAll_with_engine] at hrest
    exact hline.trans hrest

theorem emit_cons {l : Line} {ws : List Line} {k : After} {pos : Pos} (hx : exec i s = .next ((Deed.emit (l :: ws) k).run t))
    (he : t.engine = .running cmd pos) (hb : t.bus = .idle) :
    OkRun i s [] { applyAll (l :: ws) t with engine := .running cmd (.lines [] k) } := by
  have hbus : (l.apply t).bus = .idle := (Line.apply_bus l t).trans hb
  have hrest := lines (i := i) (s := { l.apply t with engine := .running cmd (.lines ws k) }) hbus rfl
  rw [applyAll_with_engine] at hrest
  exact (quiet (exec_of_emit_cons hx he) hbus).trans hrest

end OkRun

theorem applyAll_bus (ws : List Line) (s : State) : (applyAll ws s).bus = s.bus := by
  induction ws generalizing s with
  | nil => rfl
  | cons l ws ih => rw [applyAll, ih, Line.apply_bus]

/-- Lines up to the command's end. -/
theorem OkRun.emit_cons_finish {i : Instr} {s t : State} {cmd : Word} {l : Line} {ws : List Line} {e : ErrCode} {pos : Pos}
    (hx : exec i s = .next ((Deed.emit (l :: ws) (.finish e)).run t)) (he : t.engine = .running cmd pos) (hb : t.bus = .idle) :
    OkRun i s [] { applyAll (l :: ws) t with err := e, done := true, engine := .idle } :=
  (OkRun.emit_cons hx he hb).trans (.quiet (raises_of_lines_nil_finish i rfl) ((applyAll_bus (l :: ws) t).trans hb))

/-! ## What replaying entries comes to -/

/-- The request of a table entry. -/
def seqWrite (dev : DevAddr) (e : Byte × Byte) : Request := .write dev e.1 .one (zext e.2)

/-- The sensor after serving the entries' requests in turn. -/
def served (dev : DevAddr) (es : List (Byte × Byte)) (s : State) : State :=
  es.foldl (fun u e => sensorServes 0xF (seqWrite dev e) .none u) s

/-- The entries that select the bank. -/
def bankEntries (es : List (Byte × Byte)) : List (Byte × Byte) := es.filter fun e => e.1 == 0xFF#8

/-- The state at the loop's head once the entries `es` are written and counted; `okRun_replayed` ties it to the model. -/
def replayed (es : List (Byte × Byte)) (s : State) : State :=
  { s.withSensor (served s.devAddr es s) with
    bank := ((bankEntries es).getLast?.map (fun e => e.2)).getD s.bank
    bankValid := s.bankValid || !(bankEntries es).isEmpty
    seqPc := s.seqPc + BitVec.ofNat 16 es.length }

theorem served_withSensor (dev : DevAddr) (es : List (Byte × Byte)) (s u : State) :
    served dev es (s.withSensor u) = s.withSensor (served dev es u) := by
  induction es generalizing u with
  | nil => rfl
  | cons e es ih =>
    simp only [served, List.foldl_cons] at ih ⊢
    rw [sensorServes_withSensor, ih]

theorem replayed_nil (s : State) : replayed [] s = s := by
  simp [replayed, served, bankEntries, State.withSensor]

/-- What one entry's write and its lines do, from loop's head to loop's head. -/
def replayEntry (e : Byte × Byte) (s : State) : State :=
  { s.withSensor (sensorServes 0xF (seqWrite s.devAddr e) .none s) with
    bank := if e.1 = 0xFF#8 then e.2 else s.bank
    bankValid := s.bankValid || e.1 == 0xFF#8
    seqPc := s.seqPc + 1 }

theorem bankEntries_cons_bank {e : Byte × Byte} (es : List (Byte × Byte)) (h : e.1 = 0xFF#8) :
    bankEntries (e :: es) = e :: bankEntries es := List.filter_cons_of_pos (by simpa using h)

theorem bankEntries_cons_other {e : Byte × Byte} (es : List (Byte × Byte)) (h : e.1 ≠ 0xFF#8) :
    bankEntries (e :: es) = bankEntries es := List.filter_cons_of_neg (by simpa using h)

/-- Of the bank's entries the last one counts. -/
theorem replayed_cons (e : Byte × Byte) (es : List (Byte × Byte)) (s : State) :
    replayed (e :: es) s = replayed es (replayEntry e s) := by
  have hserved : served s.devAddr es (replayEntry e s) = (replayEntry e s).withSensor (served s.devAddr (e :: es) s) :=
    served_withSensor s.devAddr es (replayEntry e s) (sensorServes 0xF (seqWrite s.devAddr e) .none s)
  have hpc : s.seqPc + BitVec.ofNat 16 (es.length + 1) = s.seqPc + 1 + BitVec.ofNat 16 es.length := by
    rw [Nat.add_comm, BitVec.ofNat_add, ← BitVec.add_assoc]
    rfl
  have hdev : (replayEntry e s).devAddr = s.devAddr := rfl
  rw [replayed, replayed, hdev, hserved]
  by_cases h : e.1 = 0xFF#8
  · simp [bankEntries_cons_bank es h, List.getLast?_cons, replayEntry, State.withSensor, h, hpc]
  · have hbeq : (e.1 == 0xFF#8) = false := by simpa using h
    simp [bankEntries_cons_other es h, replayEntry, State.withSensor, h, hbeq, hpc]

/-- An entry's Ok is recorded in the bank shadow, at 0xFF, and in SEQ_PC. -/
theorem okRun_answered_entry {s : State} {cmd : Word} {dev : DevAddr} {e : Byte × Byte} {v : Word}
    (he : s.engine = .running cmd .await) (hb : s.bus = .answered (seqWrite dev e) (.ok v)) :
    OkRun .seqRun s []
      { s with
        bus := .idle
        bank := if e.1 = 0xFF#8 then e.2 else s.bank
        bankValid := s.bankValid || e.1 == 0xFF#8
        seqPc := s.seqPc + 1
        engine := .running cmd (.lines [] .loop) } := by
  obtain ⟨reg, b⟩ := e
  by_cases h : reg = 0xFF#8
  · subst h
    have hbyte : (zext b).setWidth 8 = b := BitVec.setWidth_setWidth_of_le b (by decide)
    have hrun := OkRun.emit_cons (exec_answered_ok (seqRun_onOk_bank dev .one (zext b) v _) he hb) he rfl
    simpa [applyAll, hbyte] using hrun
  · have hbeq : (reg == 0xFF#8) = false := by simpa using h
    have hrun := OkRun.emit_cons (exec_answered_ok (seqRun_onOk_below dev .one (zext b) v _ h) he hb) he rfl
    simpa [applyAll, h, hbeq] using hrun

/-- An entry's rounds: its write, the Ok answer, and the lines that record it. -/
theorem okRun_replayEntry {s : State} {cmd : Word} {e : Byte × Byte} (hb : s.bus = .idle)
    (he : s.engine = .running cmd (.lines [] .loop)) (hentry : s.tuning[s.seqPc.toNat]? = some e) :
    OkRun .seqRun s [seqWrite s.devAddr e] (replayEntry e s) := by
  have hwrite := OkRun.write hb he (exec_loop (seqRun_loop_entry hentry) he)
  have hrun := hwrite.trans (okRun_answered_entry (e := e) rfl rfl)
  rw [← he, ← hb] at hrun
  exact hrun

/-- The entries from SEQ_PC on, by induction on them; SEQ_PC does not wrap, as the table's length has 16 bits. -/
theorem okRun_replayed {s : State} {cmd : Word} {es : List (Byte × Byte)} (hlen : s.tuning.length ≤ 65535) (hb : s.bus = .idle)
    (he : s.engine = .running cmd (.lines [] .loop)) (hes : s.tuning.drop s.seqPc.toNat = es) :
    OkRun .seqRun s (es.map (seqWrite s.devAddr)) (replayed es s) := by
  induction es generalizing s with
  | nil =>
    rw [replayed_nil]
    exact OkRun.refl _ s
  | cons e es ih =>
    have hlt : s.seqPc.toNat < s.tuning.length := by
      by_contra hge
      simp [List.drop_eq_nil_of_le (not_lt.1 hge)] at hes
    rw [List.drop_eq_getElem_cons hlt, List.cons.injEq] at hes
    obtain ⟨hhead, htail⟩ := hes
    have hpc : (s.seqPc + 1).toNat = s.seqPc.toNat + 1 := by
      have hadd : (s.seqPc + 1).toNat = (s.seqPc.toNat + 1) % 2 ^ 16 := BitVec.toNat_add s.seqPc 1
      omega
    have hentry := okRun_replayEntry (e := e) hb he (by rw [List.getElem?_eq_getElem hlt, hhead])
    have hrest := ih (s := replayEntry e s) hlen hb he (by rw [← htail, ← hpc]; rfl)
    rw [replayed_cons]
    exact hentry.trans hrest

/-! ## What the table does to the sensor -/

theorem served_elsewhere {s : State} {dev : DevAddr} (es : List (Byte × Byte)) (h : dev ≠ s.sensorAddr) : served dev es s = s := by
  induction es with
  | nil => rfl
  | cons e es ih =>
    have hfirst : sensorServes 0xF (seqWrite dev e) .none s = s := sensorServes_elsewhere _ _ _ _ _ h
    rw [served, List.foldl_cons, hfirst]
    exact ih

theorem sensorServes_seqWrite {s : State} {dev : DevAddr} (e : Byte × Byte) (h : dev = s.sensorAddr) :
    sensorServes 0xF (seqWrite dev e) .none s = sensorTake e.1 e.2 s := by
  have hbyte : (zext e.2).extractLsb' 0 8 = e.2 := freeByte_zext e.2
  have htook : ((0xF : BitVec 4) &&& Transfer.none.left).getLsbD 0 = true := by decide
  rw [seqWrite, sensorServes_here _ _ _ _ _ h, wireBytes, takeBytes, takeBytes, htook, if_pos rfl, hbyte]

theorem sensorTake_sensorAddr {s : State} {reg : Byte} (b : Byte) (h : reg ≠ 0xFF#8 → Config.isAddrReg s.sensorBank reg = false) :
    (sensorTake reg b s).sensorAddr = s.sensorAddr := by
  obtain ⟨-, e⟩ | ⟨hreg, e⟩ := sensorTake_cases reg b s <;> rw [e]
  simp [h hreg]

/-- A sensor at DEV_ADDR that no entry moves takes every entry. -/
theorem served_here {s : State} {dev : DevAddr} {es : List (Byte × Byte)} (hdev : dev = s.sensorAddr)
    (hes : ∀ e ∈ es, e.1 ≠ 0xFF#8 → ∀ bank, Config.isAddrReg bank e.1 = false) :
    served dev es s = es.foldl (fun u e => sensorTake e.1 e.2 u) s := by
  induction es generalizing s with
  | nil => rfl
  | cons e es ih =>
    obtain ⟨hhead, htail⟩ := List.forall_mem_cons.1 hes
    have hstays : dev = (sensorTake e.1 e.2 s).sensorAddr := by rw [sensorTake_sensorAddr e.2 fun hreg => hhead hreg _, hdev]
    rw [served, List.foldl_cons, sensorServes_seqWrite e hdev, List.foldl_cons]
    exact ih hstays htail

/-! ## The whole run -/

/-- SEQ_RUN at its loop's head for the first time (R159). -/
def atHead (s : State) (cmd : Word) : State := { s with cfgValid := false, seqPc := 0, engine := .running cmd (.lines [] .loop) }

/-- SEQ_RUN from its start to its end. -/
theorem okRun_seqRun {s : State} {cmd : Word} (he : s.engine = .running cmd .start) (hb : s.bus = .idle)
    (hlen : s.tuning.length ≤ 65535) :
    OkRun .seqRun s (s.tuning.map (seqWrite s.devAddr))
      { s.withSensor (served s.devAddr s.tuning s) with
        cfgValid := true
        seqPc := BitVec.ofNat 16 s.tuning.length
        res := { s.res with r0 := word s.tuning.length }
        bank := ((bankEntries s.tuning).getLast?.map (fun e => e.2)).getD s.bank
        bankValid := s.bankValid || !(bankEntries s.tuning).isEmpty
        err := .none
        done := true
        engine := .idle } := by
  have hx := exec_start (i := .seqRun) rfl he
  have hstart : OkRun .seqRun s [] (atHead s cmd) := OkRun.emit_cons hx he hb
  have hentries := okRun_replayed (s := atHead s cmd) hlen hb rfl rfl
  have hpc : (replayed s.tuning (atHead s cmd)).seqPc = BitVec.ofNat 16 s.tuning.length := BitVec.zero_add _
  have hend : s.tuning.length ≤ (replayed s.tuning (atHead s cmd)).seqPc.toNat := by
    rw [hpc, BitVec.toNat_ofNat]
    omega
  have hloop := exec_loop (cmd := cmd) (seqRun_loop_end (s := replayed s.tuning (atHead s cmd)) hend) rfl
  have hfinish := OkRun.emit_cons_finish (cmd := cmd) hloop rfl hb
  have hserved : served (atHead s cmd).devAddr s.tuning (atHead s cmd) = (atHead s cmd).withSensor (served s.devAddr s.tuning s) :=
    served_withSensor s.devAddr s.tuning (atHead s cmd) s
  have hrun := hstart.trans (hentries.trans hfinish)
  simp only [replayed, hserved] at hrun
  simpa [applyAll, atHead, State.withSensor, RegFile.set] using hrun

/-- Settles O59: start, one entry after the other, and the end are one run; what the entries do to the sensor is said apart. -/
theorem seqRunReplaysTheWholeTable : Obligations.SeqRunReplaysTheWholeTable := by
  intro s cmd he hb hlen request u w banks
  refine ⟨okRun_seqRun he hb hlen, fun hdev hes => ?here, fun hdev => ?elsewhere⟩
  case here =>
    have hserved : u = w := served_here hdev hes
    rw [hserved]
    exact ⟨rfl, rfl, rfl⟩
  case elsewhere =>
    have hserved : u = s := served_elsewhere s.tuning hdev
    rw [hserved]
    exact ⟨rfl, rfl, rfl⟩

end Sys2Proof.Machine
end

section
/-! PROOFS. The timeout-deadline guard: the tick along a run (spec/42_guard.md R180), the commands GUARD_ARM, GUARD_CHECK and
TIMEOUT_OCCURRED (R181, R182, R184 to R186), and the polls, turn by turn and without a deadline (R187 to R189). -/

namespace Sys2Proof.Machine

open Sys2Proof

/-! ## The tick along a run -/

theorem tick_le_tickMoves (k : Tick) (s : State) : s.tick.toNat ≤ (tickMoves k s).tick.toNat := by
  rw [tickMoves_tick]
  split_ifs with hforward
  · exact hforward
  · exact le_rfl

theorem engineTurn_tick {s t : State} (h : engineTurn s = .next t) : t.tick = s.tick := by
  obtain ⟨-, rfl⟩ | ⟨-, rfl⟩ | ⟨cmd, pos, i, -, -, hx⟩ := engineTurn_next h
  · rfl
  · rfl
  · exact (exec_keeps_surroundings hx).tick

theorem csrWrite_tick (c : Csr) (w : Word) (s : State) : (c.write w s).tick = s.tick := by
  obtain e | ⟨v, e⟩ | ⟨-, e | ⟨f, e⟩ | e | e | e⟩ := csrWrite_cases c w s <;> simp [e]

/-- Only the tick's own event and reset change the tick. -/
theorem perform_tick_cases {e : Event} {s t : State} (h : perform e s = .next t) :
    (∃ k, t = tickMoves k s) ∨ (∃ took k, e = .reset took k) ∨ t.tick = s.tick := by
  cases e with
  | tick k =>
    cases h
    exact .inl ⟨k, rfl⟩
  | reset took k => exact .inr (.inl ⟨took, k, rfl⟩)
  | engine => exact .inr (.inr (engineTurn_tick h))
  | host a =>
    obtain ⟨v, rfl⟩ | ⟨c, w, rfl⟩ := hostAccess_next h
    · exact .inr (.inr rfl)
    · exact .inr (.inr (csrWrite_tick c w s))
  | transport a =>
    cases h
    rw [transportAnswers_frame]
    exact .inr (.inr rfl)
  | wire k free =>
    cases h
    rw [transfersByte_frame]
    exact .inr (.inr rfl)
  | sensor bank reg v =>
    cases h
    unfold sensorChanges
    split_ifs <;> exact .inr (.inr rfl)

/-- Settles O21: the tick's own event moves it forward or not at all, and no other agent but reset writes it. -/
theorem tickNeverGoesBack : Obligations.TickNeverGoesBack := by
  intro s t h hno
  obtain ⟨u, hu, rfl⟩ := step_next h
  show s.tick.toNat ≤ u.tick.toNat
  obtain ⟨k, rfl⟩ | ⟨took, k, hreset⟩ | hkept := perform_tick_cases hu
  · exact tick_le_tickMoves k s
  · exact absurd hreset (hno took k)
  · rw [hkept]

/-! ## The guard -/

/-- R181's sum saturates below 2^64, so no bit of it is lost. -/
theorem deadlineFrom_toNat (t : Tick) (timeout : Word) :
    (deadlineFrom t timeout).toNat = min (t.toNat + timeout.toNat) (2 ^ 64 - 1) :=
  Nat.mod_eq_of_lt (lt_of_le_of_lt (min_le_right _ _) (by decide))

/-- The lines of `arm()` (R181), GUARD_EN's value as a decision. -/
theorem armLines_eq (s : State) :
    armLines s = [.deadline (deadlineFrom s.tick s.ioTimeout), .guardEn (decide (s.ioTimeout ≠ 0))] := by
  rw [armLines, decide_not]
  rfl

theorem expired_iff (s : State) : expired s = true ↔ s.guardEn = true ∧ s.deadline.toNat < s.tick.toNat := by
  rw [expired, Bool.and_eq_true, decide_eq_true_iff]

/-- Settles O50: the lines of `arm()` are all the command does. -/
theorem guardArmSetsTheDeadline : Obligations.GuardArmSetsTheDeadline := by
  refine ⟨encodedAs_of_wf rfl rfl, fun s cmd he => ?_⟩
  have hx := exec_start (i := .guardArm) (congrArg (Deed.emit · (.finish .none)) (armLines_eq s)) he
  exact ⟨_, deadlineFrom_toNat s.tick s.ioTimeout, exec_of_emit_cons hx he, execTimes_of_emit_finish hx he⟩

/-- Settles O51: `expired()` chooses the lines, and either way the command finishes without an error. -/
theorem guardCheckReportsExpiry : Obligations.GuardCheckReportsExpiry := by
  refine ⟨encodedAs_of_wf rfl rfl, fun s cmd he => ?_⟩
  split_ifs with hpast
  · have hx := exec_start (i := .guardCheck) (congrArg (Deed.emit · (.finish .none)) (if_pos ((expired_iff s).2 hpast))) he
    exact ⟨exec_of_emit_cons hx he, execTimes_of_emit_finish hx he⟩
  · have hin : ¬ expired s = true := fun h => hpast ((expired_iff s).1 h)
    have hx := exec_start (i := .guardCheck) (congrArg (Deed.emit · (.finish .none)) (if_neg hin)) he
    exact ⟨by decide, exec_of_emit_cons hx he, execTimes_of_emit_finish hx he⟩

/-- Settles O52: one line reads the flag and clears it. -/
theorem timeoutOccurredReadsAndClears : Obligations.TimeoutOccurredReadsAndClears := by
  refine ⟨encodedAs_of_wf rfl rfl, fun s cmd he => ?_⟩
  have hx := exec_start (i := .timeoutOccurred) rfl he
  exact ⟨exec_of_emit_cons hx he, execTimes_of_emit_finish hx he⟩

/-! ## The polls -/

section Polling

variable {i : Instr} {reg : Byte} {test : Word → Bool} {s : State} {cmd : Word}

theorem exec_polling_start (hi : script i = .polling reg test) (he : s.engine = .running cmd .start) :
    exec i s = .next ((Deed.emit [.deadline (deadlineFrom s.tick s.ioTimeout), .guardEn (decide (s.ioTimeout ≠ 0))] .loop).run s) := by
  rw [← armLines_eq]
  exact exec_start (by rw [hi]; rfl) he

theorem issues_polling_loop (hi : script i = .polling reg test) (he : s.engine = .running cmd (.lines [] .loop)) :
    Issues i s cmd (.read s.devAddr reg .one) :=
  exec_of_issue (exec_loop (by rw [hi]; rfl) he) he

section Answered

variable {r : Request} {v : Word}

theorem exec_polling_hit (hi : script i = .polling reg test) (he : s.engine = .running cmd .await)
    (hb : s.bus = .answered r (.ok v)) (hhit : test v = true) :
    exec i s = .next ((Deed.emit [.res 0 v] (.finish .none)).run { s with bus := .idle }) :=
  exec_answered_ok (by rw [hi]; exact if_pos hhit) he hb

theorem exec_polling_expired (hi : script i = .polling reg test) (he : s.engine = .running cmd .await)
    (hb : s.bus = .answered r (.ok v)) (hmiss : ¬ test v = true) (hexpired : expired s = true) :
    exec i s = .next ((Deed.emit [.didTimeout, .res 0 0xFFFF] (.finish .timeout)).run { s with bus := .idle }) :=
  exec_answered_ok (by rw [hi]; exact (if_neg hmiss).trans (if_pos hexpired)) he hb

/-- A miss inside the deadline leads back to the loop's head. -/
theorem exec_polling_again (hi : script i = .polling reg test) (he : s.engine = .running cmd .await)
    (hb : s.bus = .answered r (.ok v)) (hmiss : ¬ test v = true) (hin : ¬ expired s = true) :
    exec i s = .next { s with bus := .idle, engine := .running cmd (.lines [] .loop) } := by
  have hx : exec i s = .next ((Deed.emit [] .loop).run { s with bus := .idle }) :=
    exec_answered_ok (by rw [hi]; exact (if_neg hmiss).trans (if_neg hin)) he hb
  exact hx.trans (congrArg _ (setPos_of_running (s := { s with bus := .idle }) _ he))

end Answered

/-- A round of read and test that misses, with the guard off, is a fixed point. -/
theorem readRound_polling_miss {v : Word} (hi : script i = .polling reg test) (he : s.engine = .running cmd (.lines [] .loop))
    (hb : s.bus = .idle) (hoff : s.guardEn = false) (hmiss : ¬ test v = true) : readRound i v s = s := by
  have hissue : exec i s = .next { s with bus := .pending (.read s.devAddr reg .one) .none, engine := .running cmd .await } :=
    issues_polling_loop hi he
  have hagain := exec_polling_again
    (s := { s with bus := .answered (.read s.devAddr reg .one) (.ok v), engine := .running cmd .await }) hi rfl rfl hmiss
    (by simp [expired, hoff])
  simp only [readRound, hissue, hagain, ← he, ← hb]

theorem foldl_readRound_polling_miss {vs : List Word} (hi : script i = .polling reg test)
    (he : s.engine = .running cmd (.lines [] .loop)) (hb : s.bus = .idle) (hoff : s.guardEn = false)
    (hmiss : ∀ v ∈ vs, ¬ test v = true) : vs.foldl (fun u v => readRound i v u) s = s := by
  induction vs with
  | nil => rfl
  | cons v vs ih =>
    rw [List.foldl_cons, readRound_polling_miss hi he hb hoff (hmiss v (by simp))]
    exact ih fun w hw => hmiss w (List.mem_cons_of_mem v hw)

end Polling

/-- Either polarity is the one polling script, with its predicate as a test. -/
theorem exists_script_polling {i : Instr} {reg mask : Byte} {hit : Word → Prop}
    (h : (i = .pollNz reg mask ∧ ∀ v, hit v ↔ v &&& zext mask ≠ 0) ∨ (i = .pollZ reg mask ∧ ∀ v, hit v ↔ v &&& zext mask = 0)) :
    ∃ test, script i = .polling reg test ∧ ∀ v, hit v ↔ test v = true := by
  obtain ⟨rfl, hhit⟩ | ⟨rfl, hhit⟩ := h
  · exact ⟨_, rfl, fun v => (hhit v).trans bne_iff_ne.symm⟩
  · exact ⟨_, rfl, fun v => (hhit v).trans beq_iff_eq.symm⟩

/-- Settles O53: the script of a poll at each of its positions, and the three branches of its answer. -/
theorem pollsReadThenCheckTheDeadline : Obligations.PollsReadThenCheckTheDeadline := by
  refine ⟨fun reg mask => ⟨encodedAs_of_wf rfl ?nz, encodedAs_of_wf rfl ?z⟩, fun i reg mask hit s cmd h => ?turns⟩
  case nz | z => simp [encode, toNat_pack]
  case turns =>
    obtain ⟨test, hi, htest⟩ := exists_script_polling h
    refine ⟨fun he => ?armed, issues_polling_loop hi, fun r => raisesTransport_of_answered_fail i, fun r v he hb => ?answered⟩
    case armed =>
      have hx := exec_polling_start hi he
      exact ⟨_, deadlineFrom_toNat s.tick s.ioTimeout, exec_of_emit_cons hx he, execTimes_of_emit_loop hx he⟩
    case answered =>
      rw [htest, ← expired_iff]
      refine ⟨fun hhit => ?hit, fun hmiss hexpired => ?expired, exec_polling_again hi he hb⟩
      case hit =>
        have hx := exec_polling_hit hi he hb hhit
        exact ⟨exec_of_emit_cons hx he, execTimes_of_emit_finish hx he⟩
      case expired =>
        have hx := exec_polling_expired hi he hb hmiss hexpired
        exact ⟨exec_of_emit_cons hx he, execTimes_of_emit_finish hx he⟩

/-- Settles O54: every round stands where it stood, so any list of them does. -/
theorem anUnboundedPollNeverEnds : Obligations.AnUnboundedPollNeverEnds := by
  intro reg mask s cmd vs he hb hoff
  refine ⟨fun hclear => foldl_readRound_polling_miss rfl he hb hoff fun v hv => ?nz,
    fun hset => foldl_readRound_polling_miss rfl he hb hoff fun v hv => ?z⟩
  case nz => simpa using hclear v hv
  case z => simpa using hset v hv

end Sys2Proof.Machine
end

section
/-! PROOFS. The configuration arithmetic: the checks of a computing command one at a time, the fields of its operands, the binary32
patterns of SRL_ENC and SRL_DEC, and the commands of spec/43_config_arith.md R220 to R228. -/

namespace Sys2Proof.Machine

open Sys2Proof

/-! ## A computing command, check by check -/

/-- A branch of the pseudocode: a statement that branches alike holds where each branch's answer gives its part. -/
theorem ite_of_branch {answer a b : Except ErrCode (List Line)} {c A B : Prop} [Decidable c] (hl : answer = if c then a else b)
    (hthen : c → answer = a → A) (helse : ¬ c → answer = b → B) : if c then A else B := by
  split_ifs with hc
  · exact hthen hc (hl.trans (if_pos hc))
  · exact helse hc (hl.trans (if_neg hc))

section Computing

variable {i : Instr} {lines : State → Except ErrCode (List Line)} {s : State} {cmd : Word}

/-- One check: where it fails the command raises, and elsewhere the rest decides. -/
theorem raises_or_of_check {c P : Prop} [Decidable c] {e : ErrCode} {rest : Except ErrCode (List Line)}
    (hi : script i = .computing lines) (he : s.engine = .running cmd .start) (hl : lines s = if c then .error e else rest)
    (hrest : ¬ c → lines s = rest → P) : if c then Raises i s e else P :=
  ite_of_branch hl (fun _ => raises_of_computing hi he) hrest

/-- The six results of R224 in the starting turn. -/
theorem writesAllRes_of_computing {f : RegFile} (hi : script i = .computing lines) (he : s.engine = .running cmd .start)
    (hl : lines s = .ok [.allRes f]) :
    exec i s = .next { s with res := f, engine := .running cmd (.lines [] (.finish .none)) } ∧
      execTimes 2 i s = .next { s with res := f, err := .none, done := true, engine := .idle } :=
  ⟨exec_computing_cons hi he hl, execTimes_computing_cons hi he hl⟩

/-- The five lines of R226's allotment, the first in the starting turn. -/
theorem writesAllotment_of_computing {v0 v1 v2 v3 b : Word} (hi : script i = .computing lines)
    (he : s.engine = .running cmd .start) (hl : lines s = .ok [.res 0 v0, .res 1 v1, .res 2 v2, .res 3 v3, .budget b]) :
    exec i s = .next
      { s with res := { s.res with r0 := v0 },
               engine := .running cmd (.lines [.res 1 v1, .res 2 v2, .res 3 v3, .budget b] (.finish .none)) } ∧
    execTimes 6 i s = .next
      { s with res := { s.res with r0 := v0, r1 := v1, r2 := v2, r3 := v3 }, budgetUs := b, err := .none, done := true,
               engine := .idle } :=
  ⟨exec_computing_cons hi he hl, execTimes_computing_cons hi he hl⟩

end Computing

theorem toNat_word {v : Nat} (h : v < 2 ^ 32) : (word v).toNat = v := by
  rw [word, BitVec.toNat_ofNat, Nat.mod_eq_of_lt h]

/-! ## binary32 (R216, R217) -/

/-- The model's integer magnitude is the rational one in units of 2^-149. -/
theorem binary32Magnitude_eq (w : Word) : binary32Magnitude w = (srlMagnitude w : ℚ) / 2 ^ 149 := by
  rw [binary32Magnitude, srlMagnitude]
  split_ifs with hexp
  · rw [zpow_neg, ← div_eq_mul_inv]
    norm_cast
  · obtain ⟨e, he⟩ := Nat.exists_eq_succ_of_ne_zero hexp
    have hunits : ((e.succ : ℕ) : ℤ) - 150 = (e : ℤ) - (149 : ℕ) := by
      push_cast
      ring
    rw [he, hunits, zpow_sub₀ two_ne_zero, zpow_natCast, zpow_natCast, Nat.succ_sub_one, ← mul_div_assoc]
    push_cast
    rfl

/-- A pattern is negative where its sign bit is set, but for minus zero. -/
theorem binary32Value_neg_iff (w : Word) : binary32Value w < 0 ↔ w.getLsbD 31 = true ∧ srlMagnitude w ≠ 0 := by
  have hpos : 0 < (srlMagnitude w : ℚ) / 2 ^ 149 ↔ srlMagnitude w ≠ 0 := by
    rw [div_pos_iff_of_pos_right (by positivity), Nat.cast_pos, Nat.pos_iff_ne_zero]
  rw [binary32Value, binary32Magnitude_eq]
  split_ifs with hsign
  · rw [neg_lt_zero, hpos, and_iff_right hsign]
  · exact iff_of_false (not_lt.2 (by positivity)) fun h => hsign h.1

theorem binary32Value_of_not_neg {w : Word} (h : ¬ binary32Value w < 0) : binary32Value w = (srlMagnitude w : ℚ) / 2 ^ 149 := by
  rw [binary32Value_neg_iff, not_and_not_right] at h
  rw [binary32Value, binary32Magnitude_eq]
  split_ifs with hsign
  · simp [h hsign]
  · rfl

theorem srlMax_lt_iff {w : Word} (h : ¬ binary32Value w < 0) :
    (51199 / 100 : ℚ) < binary32Value w ↔ Config.srlMaxNum * 2 ^ 149 < Config.srlMaxDen * srlMagnitude w := by
  rw [binary32Value_of_not_neg h, div_lt_div_iff₀ (by norm_num) (by positivity), mul_comm (srlMagnitude w : ℚ),
    Config.srlMaxNum, Config.srlMaxDen]
  norm_cast

/-- R216's quotient of the magnitude is the floor of the scaled value. -/
theorem floor_binary32Value {w : Word} (h : ¬ binary32Value w < 0) : ⌊binary32Value w * 128⌋₊ = srlMagnitude w / 2 ^ 142 := by
  have hscale : binary32Value w * 128 = (srlMagnitude w : ℚ) / ((2 ^ 142 : ℕ) : ℚ) := by
    rw [binary32Value_of_not_neg h, Nat.cast_pow, Nat.cast_ofNat]
    ring
  rw [hscale, Nat.floor_div_eq_div]

/-- R216 on the pattern's value. -/
theorem srlEnc_eq (w : Word) : srlEnc w =
    if w.toNat / 2 ^ 23 % 256 = 255 then none
    else if binary32Value w < 0 ∨ (51199 / 100 : ℚ) < binary32Value w then none
    else some ⌊binary32Value w * 128⌋₊ := by
  refine ite_congr rfl (fun _ => rfl) fun _ => ?_
  simp only [← binary32Value_neg_iff]
  by_cases hneg : binary32Value w < 0
  · rw [if_pos hneg, if_pos (.inl hneg)]
  · simp only [hneg, false_or, if_false, srlMax_lt_iff hneg, floor_binary32Value hneg]

theorem srlEncLines_eq (s : State) : srlEncLines s =
    if s.arg.r0.toNat / 2 ^ 23 % 256 = 255 then .error .validation
    else if binary32Value s.arg.r0 < 0 ∨ (51199 / 100 : ℚ) < binary32Value s.arg.r0 then .error .validation
    else .ok [.res 0 (word ⌊binary32Value s.arg.r0 * 128⌋₊)] := by
  rw [srlEncLines, srlEnc_eq]
  split_ifs <;> rfl

/-- Settles O48: an accepted pattern is at most 511.99, so the floor of 128 times it is at most 65534. -/
theorem srlEncTruncatesTheLimit : Obligations.SrlEncTruncatesTheLimit := by
  refine ⟨encodedAs_of_wf rfl rfl, fun s cmd he => raises_or_of_check rfl he (srlEncLines_eq s) fun _ hl =>
    raises_or_of_check rfl he hl fun haccepted hl => ?_⟩
  obtain ⟨hsign, hmax⟩ := not_or.1 haccepted
  have hfloor : ⌊binary32Value s.arg.r0 * 128⌋₊ < 65535 :=
    (Nat.floor_lt' (by norm_num)).2 (by push_cast; linarith)
  have hscaled : 0 ≤ binary32Value s.arg.r0 * 128 := by linarith
  exact ⟨_, Nat.floor_le hscaled, Nat.lt_floor_add_one _, by omega, writesRes0_of_computing rfl he hl (by omega)⟩

theorem floorLog2_eq_log (fuel : Nat) {q : Nat} (h : q < 2 ^ fuel) : floorLog2 fuel q = Nat.log 2 q := by
  induction fuel generalizing q with
  | zero =>
    obtain rfl : q = 0 := by omega
    rfl
  | succ fuel ih =>
    rw [floorLog2]
    split_ifs with hq
    · exact (Nat.log_of_lt (by omega)).symm
    · rw [ih (by omega), ← Nat.log_of_one_lt_of_le one_lt_two (by omega)]

/-- The pattern of a positive `q`: the exponent field, and the significand with its hidden bit. -/
theorem exists_srlDec {q : Nat} (hpos : q ≠ 0) (hq : q < 65536) :
    ∃ k f, k ≤ 15 ∧ f < 2 ^ 23 ∧ srlDec q = (k + 120) * 2 ^ 23 + f ∧ 2 ^ 23 + f = q * 2 ^ (23 - k) := by
  have hlog : floorLog2 16 q = Nat.log 2 q := floorLog2_eq_log 16 hq
  have hk : Nat.log 2 q ≤ 15 := Nat.lt_succ_iff.1 (Nat.log_lt_of_lt_pow hpos hq)
  have hlow : 2 ^ 23 ≤ q * 2 ^ (23 - Nat.log 2 q) :=
    calc 2 ^ 23 = 2 ^ Nat.log 2 q * 2 ^ (23 - Nat.log 2 q) := by rw [← Nat.pow_add]; congr 1; omega
      _ ≤ _ := Nat.mul_le_mul_right _ (Nat.pow_log_le_self 2 hpos)
  have hhigh : q * 2 ^ (23 - Nat.log 2 q) < 2 ^ 24 :=
    calc q * 2 ^ (23 - Nat.log 2 q) < 2 ^ (Nat.log 2 q + 1) * 2 ^ (23 - Nat.log 2 q) :=
          Nat.mul_lt_mul_of_pos_right (Nat.lt_pow_succ_log_self one_lt_two q) (Nat.two_pow_pos _)
      _ = 2 ^ 24 := by rw [← Nat.pow_add]; congr 1; omega
  refine ⟨Nat.log 2 q, q * 2 ^ (23 - Nat.log 2 q) % 2 ^ 23, hk, Nat.mod_lt _ (by norm_num), ?_, by omega⟩
  simp only [srlDec, if_neg hpos, hlog]

theorem srlDec_lt {q : Nat} (hq : q < 65536) : srlDec q < 255 * 2 ^ 23 := by
  by_cases hpos : q = 0
  · subst hpos
    decide
  · obtain ⟨k, f, hk, hf, hdec, -⟩ := exists_srlDec hpos hq
    omega

/-- The decoded pattern's magnitude is that of `q / 128`, nothing lost. -/
theorem srlMagnitude_srlDec {q : Nat} (hq : q < 65536) : srlMagnitude (word (srlDec q)) = q * 2 ^ 142 := by
  by_cases hpos : q = 0
  · subst hpos
    decide
  obtain ⟨k, f, hk, hf, hdec, hsig⟩ := exists_srlDec hpos hq
  have hword : (word (srlDec q)).toNat = (k + 120) * 2 ^ 23 + f := by rw [toNat_word (by omega), hdec]
  have hexp : field (word (srlDec q)) 23 8 = k + 120 := by
    rw [field, hword]
    omega
  have hfrac : field (word (srlDec q)) 0 23 = f := by
    rw [field, hword]
    omega
  rw [srlMagnitude, hexp, hfrac, if_neg (by omega), hsig, Nat.mul_assoc, ← Nat.pow_add]
  congr 2
  omega

theorem binary32Value_srlDec {q : Nat} (hq : q < 65536) : binary32Value (word (srlDec q)) = (q : ℚ) / 128 := by
  have hlt := srlDec_lt hq
  have hsign : (word (srlDec q)).getLsbD 31 = false := by
    rw [BitVec.getLsbD, toNat_word (by omega)]
    exact Nat.testBit_lt_two_pow (by omega)
  have hnonneg : ¬ binary32Value (word (srlDec q)) < 0 := by
    simp only [binary32Value_neg_iff, hsign, Bool.false_eq_true, false_and, not_false_eq_true]
  rw [binary32Value_of_not_neg hnonneg, srlMagnitude_srlDec hq, Nat.cast_mul, Nat.cast_pow, Nat.cast_ofNat]
  ring

theorem srlDecLines_eq (s : State) : srlDecLines s =
    if 0x10000 ≤ s.arg.r0.toNat then .error .range else .ok [.res 0 (word (srlDec s.arg.r0.toNat))] :=
  ite_not_fits s.arg.r0 16 _ fun q => .ok [.res 0 (word (srlDec q))]

/-- Settles O49: 16 bits fit the significand, so the pattern is exact. -/
theorem srlDecIsExact : Obligations.SrlDecIsExact := by
  refine ⟨encodedAs_of_wf rfl rfl, fun s cmd he => raises_or_of_check rfl he (srlDecLines_eq s) fun hfits hl => ?_⟩
  have hq : s.arg.r0.toNat < 65536 := not_le.1 hfits
  have hlt := srlDec_lt hq
  have hword : (word (srlDec s.arg.r0.toNat)).toNat = srlDec s.arg.r0.toNat := toNat_word (by omega)
  refine ⟨word (srlDec s.arg.r0.toNat), binary32Value_srlDec hq, ?_, ?_⟩
  · rw [hword]
    omega
  · rw [hword]
    exact writesRes0_of_computing rfl he hl (by omega)

/-! ## The sequence enables and the VCSEL periods (R210 to R212) -/

/-- SEQ_DECODE's code, bit by bit of the byte (the default mapping, log 10). -/
theorem code_seqEnables (b : Nat) : (seqEnables Config.seqBits b).code =
    b / 2 ^ 4 % 2 + 2 * (b / 2 ^ 3 % 2) + 4 * (b / 2 ^ 2 % 2) + 8 * (b / 2 ^ 6 % 2) + 16 * (b / 2 ^ 7 % 2) := by
  simp only [Enables.code, seqEnables, Config.seqBits, Nat.toNat_testBit]

theorem seqDecodeLines_eq (s : State) : seqDecodeLines Config.seqBits s =
    if 256 ≤ s.arg.r0.toNat then .error .range
    else .ok [.res 0 (word (seqEnables Config.seqBits s.arg.r0.toNat).code)] :=
  ite_not_fits s.arg.r0 8 _ fun b => .ok [.res 0 (word (seqEnables Config.seqBits b).code)]

/-- Settles O42: each enable stands at its place in the code, which has 5 bits. -/
theorem seqDecodeWritesTheEnables : Obligations.SeqDecodeWritesTheEnables := by
  refine ⟨encodedAs_of_wf rfl rfl, fun s cmd he => raises_or_of_check rfl he (seqDecodeLines_eq s) fun _ hl => ?_⟩
  rw [code_seqEnables] at hl
  exact writesRes0_of_computing rfl he hl (by omega)

/-- VCSEL_DEC's two checks are one bound: 8 bits hold `(r + 1) * 2` up to `r = 126`. -/
theorem vcselDecLines_eq (s : State) : vcselDecLines s =
    if 127 ≤ s.arg.r0.toNat then .error .range else .ok [.res 0 (word (vdec s.arg.r0.toNat))] := by
  have hlines := ite_not_fits s.arg.r0 8 .range fun r =>
    if 255 < vdec r then .error .range else .ok [.res 0 (word (vdec r))]
  rw [vcselDecLines, hlines]
  by_cases hwide : 2 ^ 8 ≤ s.arg.r0.toNat
  · rw [if_pos hwide, if_pos (by omega)]
  · have hbound : 255 < vdec s.arg.r0.toNat ↔ 127 ≤ s.arg.r0.toNat := by
      rw [vdec]
      omega
    simp only [if_neg hwide, hbound]

/-- Settles O43: up to 126 the decoded period fits 8 bits. -/
theorem vcselDecWritesThePeriod : Obligations.VcselDecWritesThePeriod :=
  ⟨encodedAs_of_wf rfl rfl, fun s _ he => raises_or_of_check rfl he (vcselDecLines_eq s) fun hr hl =>
    writesRes0_of_computing rfl he hl (by omega)⟩

theorem vcselEncLines_eq (legal : List Nat) (s : State) : vcselEncLines legal s =
    if 256 ≤ s.arg.r0.toNat then .error .range
    else if !legal.contains s.arg.r0.toNat then .error .validation
    else .ok [.res 0 (word (s.arg.r0.toNat / 2 - 1))] :=
  ite_not_fits s.arg.r0 8 _ fun p => if !legal.contains p then .error .validation else .ok [.res 0 (word (p / 2 - 1))]

/-- Either form accepts exactly the periods of its list. -/
theorem vcselEnc_of_legal {i : Instr} {legal : List Nat} {s : State} {cmd : Word} {p : Prop} [Decidable p]
    (hi : script i = .computing (vcselEncLines legal)) (he : s.engine = .running cmd .start) (hp : s.arg.r0.toNat ∈ legal ↔ p) :
    if 256 ≤ s.arg.r0.toNat then Raises i s .range
    else if p then WritesRes0 i s cmd (s.arg.r0.toNat / 2 - 1)
    else Raises i s .validation := by
  refine raises_or_of_check hi he (vcselEncLines_eq legal s) fun hfits hl => ?_
  split_ifs with hlegal
  · exact writesRes0_of_computing hi he (hl.trans (if_neg (by simp [hp, hlegal]))) (by omega)
  · exact raises_of_computing hi he (hl.trans (if_pos (by simp [hp, hlegal])))

/-- Settles O44: the forms differ in their list alone. -/
theorem vcselEncAcceptsOnlyLegalPeriods : Obligations.VcselEncAcceptsOnlyLegalPeriods :=
  ⟨encodedAs_of_wf rfl rfl, encodedAs_of_wf rfl rfl, fun _ _ he =>
    ⟨vcselEnc_of_legal rfl he (by simp [Config.vcselPreSet]), vcselEnc_of_legal rfl he (by simp [Config.vcselFinalSet])⟩⟩

/-! ## The step timeouts and the budget (R213 to R215) -/

/-- The five enables stand in the low byte, so the bits above it do not matter. -/
theorem seqEnables_field (v : Word) : seqEnables Config.seqBits (field v 0 8) = seqEnables Config.seqBits v.toNat := by
  have hbit {k : Nat} (hk : k < 8) : (field v 0 8).testBit k = v.toNat.testBit k := by
    rw [field, pow_zero, Nat.div_one, Nat.testBit_mod_two_pow, decide_eq_true hk, Bool.true_and]
  simp [seqEnables, Config.seqBits, hbit]

theorem final_seqEnables (b : Nat) : (seqEnables Config.seqBits b).final = decide (b / 2 ^ 7 % 2 = 1) :=
  Nat.testBit_eq_decide_div_mod_eq

theorem preShare_seqEnables (b preMclks : Nat) :
    preShare (seqEnables Config.seqBits b) preMclks = if b / 2 ^ 6 % 2 = 1 then preMclks else 0 := by
  simp only [preShare, seqEnables, Config.seqBits, Nat.testBit_eq_decide_div_mod_eq, decide_eq_true_eq]

theorem stepCosts_seqEnables (b msrcUs preUs : Nat) : stepCosts (seqEnables Config.seqBits b) msrcUs preUs =
    (if b / 2 ^ 4 % 2 = 1 then msrcUs + 590 else 0)
      + (if b / 2 ^ 2 % 2 = 1 then 2 * (msrcUs + 690) else if b / 2 ^ 3 % 2 = 1 then msrcUs + 660 else 0)
      + (if b / 2 ^ 6 % 2 = 1 then preUs + 660 else 0) := by
  simp only [stepCosts, seqEnables, Config.seqBits, Nat.testBit_eq_decide_div_mod_eq, decide_eq_true_eq, Config.ovhTcc,
    Config.ovhDss, Config.ovhMsrc, Config.ovhPre]

/-! ## STEP_TIMEOUTS (R224) -/

/-- A count of at most 16 bits at a period of at most 8 bits takes less than 2^32 µs. -/
theorem m2u_lt {m p : Nat} (hm : m ≤ 0xFFFF) (hp : p ≤ 255) : m2u .halfDivisor m p < 2 ^ 32 := by
  have hmp : mp p ≤ mp 255 := mp_strictMono.monotone hp
  have hlargest : mp 255 = 972346 := by decide
  have hprod : m * mp p ≤ 0xFFFF * 972346 := Nat.mul_le_mul hm (hlargest ▸ hmp)
  rw [m2u]
  omega

theorem decTo_field_low (v : Word) : decTo (field v 0 16) = v.toNat % 256 * 2 ^ (v.toNat / 256 % 256) + 1 := by
  have hmantissa : field v 0 16 % 256 = v.toNat % 256 := by
    rw [field]
    omega
  have hshift : field v 0 16 / 256 = v.toNat / 256 % 256 := by
    rw [field]
    omega
  rw [decTo, hmantissa, hshift]

theorem decTo_field_high (v : Word) : decTo (field v 16 16) = v.toNat / 2 ^ 16 % 256 * 2 ^ (v.toNat / 2 ^ 24) + 1 := by
  have hv := v.isLt
  have hmantissa : field v 16 16 % 256 = v.toNat / 2 ^ 16 % 256 := by
    rw [field]
    omega
  have hshift : field v 16 16 / 256 = v.toNat / 2 ^ 24 := by
    rw [field]
    omega
  rw [decTo, hmantissa, hshift]

theorem field_top_byte (v : Word) : field v 24 8 = v.toNat / 2 ^ 24 := by
  have hv := v.isLt
  rw [field]
  omega

/-- R224's checks on the decoded values. -/
theorem stepTimeoutsLines_eq (bias : M2uBias) (bits : SeqBits) (s : State) : stepTimeoutsLines bias bits s =
    if 255 < (stepTimeoutsOf bias bits s).prePclks ∨ 255 < (stepTimeoutsOf bias bits s).finPclks ∨
        0xFFFF < (stepTimeoutsOf bias bits s).preMclks ∨ 0xFFFF < decTo (field s.arg.r1 16 16) ∨
        decTo (field s.arg.r1 16 16) < preShare (seqEnables bits (field s.arg.r0 0 8)) (stepTimeoutsOf bias bits s).preMclks then
      .error .range
    else .ok [.allRes (stepTimeoutsOf bias bits s).results] := by
  simp only [stepTimeoutsLines, stepTimeoutsOutOfRange, Bool.or_eq_true, decide_eq_true_eq, or_assoc]
  rfl

/-- Settles O45: the checks keep every period in 8 and every count in 16 bits, so no result wraps. -/
theorem stepTimeoutsWritesSixResults : Obligations.StepTimeoutsWritesSixResults := by
  refine ⟨encodedAs_of_wf rfl rfl, fun s cmd he => ?_⟩
  intro seq pre fin msrc preMclks finTotal share us
  have hmsrc : field s.arg.r0 24 8 + 1 = msrc := congrArg (· + 1) (field_top_byte s.arg.r0)
  have hpre : decTo (field s.arg.r1 0 16) = preMclks := decTo_field_low s.arg.r1
  have hfin : decTo (field s.arg.r1 16 16) = finTotal := decTo_field_high s.arg.r1
  have hshare : preShare (seqEnables Config.seqBits (field s.arg.r0 0 8)) preMclks = share := by
    rw [preShare_seqEnables, field, pow_zero, Nat.div_one]
    rfl
  have hvalues : stepTimeoutsOf Config.m2uBias Config.seqBits s =
      { prePclks := pre, finPclks := fin, msrcMclks := msrc, msrcUs := us msrc pre, preMclks := preMclks, preUs := us preMclks pre,
        finMclks := finTotal - share, finUs := us (finTotal - share) fin } := by
    rw [stepTimeoutsOf, stepTimeouts, hpre, hfin, hshare, hmsrc]
    rfl
  have hlines := stepTimeoutsLines_eq Config.m2uBias Config.seqBits s
  rw [hvalues, hfin, hshare] at hlines
  simp only [StepTimeouts.results] at hlines
  refine raises_or_of_check rfl he hlines fun hok hl => ?_
  simp only [not_or, not_lt] at hok
  obtain ⟨hpre8, hfin8, hpre16, hfin16, -⟩ := hok
  have hmsrc8 : msrc ≤ 256 := Nat.succ_le_of_lt (Nat.div_lt_of_lt_mul s.arg.r0.isLt)
  exact ⟨_, toNat_word (by omega), toNat_word (m2u_lt (by omega) hpre8), toNat_word (by omega), toNat_word (m2u_lt hpre16 hpre8),
    toNat_word (by omega), toNat_word (m2u_lt (by omega) hfin8), writesAllRes_of_computing rfl he hl⟩

/-! ## BUDGET_GET and BUDGET_SET (R225, R226) -/

theorem budgetGetLines_eq (s : State) : budgetGetLines Config.seqBits s =
    if 256 ≤ s.arg.r0.toNat then .error .range
    else if 2 ^ 32 ≤ budgetGetSum Config.seqBits s then .error .range
    else .ok [.res 0 (word (budgetGetSum Config.seqBits s)), .budget (word (budgetGetSum Config.seqBits s))] := by
  simp [budgetGetLines, fits]

theorem budgetGetSum_eq (s : State) : budgetGetSum Config.seqBits s =
    1910 + 960 + (if s.arg.r0.toNat / 2 ^ 4 % 2 = 1 then s.arg.r1.toNat + 590 else 0)
      + (if s.arg.r0.toNat / 2 ^ 2 % 2 = 1 then 2 * (s.arg.r1.toNat + 690)
         else if s.arg.r0.toNat / 2 ^ 3 % 2 = 1 then s.arg.r1.toNat + 660 else 0)
      + (if s.arg.r0.toNat / 2 ^ 6 % 2 = 1 then s.arg.r2.toNat + 660 else 0)
      + (if s.arg.r0.toNat / 2 ^ 7 % 2 = 1 then s.arg.r3.toNat + 550 else 0) := by
  simp only [budgetGetSum, budgetSum, seqEnables_field, stepCosts_seqEnables, final_seqEnables, decide_eq_true_eq,
    Config.ovhStartGet, Config.ovhEnd, Config.ovhFinal]
  ring

/-- Settles O46: the sum is the statement's, and the two lines write it. -/
theorem budgetGetSumsTheEnabledSteps : Obligations.BudgetGetSumsTheEnabledSteps := by
  refine ⟨encodedAs_of_wf rfl rfl, fun s cmd he => ?_⟩
  have hlines := budgetGetLines_eq s
  rw [budgetGetSum_eq] at hlines
  exact raises_or_of_check rfl he hlines fun _ hl => raises_or_of_check rfl he hl fun _ hl =>
    ⟨exec_computing_cons rfl he hl, execTimes_computing_cons rfl he hl⟩

/-- What BUDGET_SET counts as used before the final range. -/
def budgetSetUsed (s : State) : Nat := budgetUsed (seqEnables Config.seqBits s.arg.r0.toNat) s.arg.r1.toNat s.arg.r2.toNat

/-- The final-range count BUDGET_SET allots, the pre-range share included. -/
def budgetSetMclks (s : State) : Nat :=
  u2m (s.arg.r4.toNat - budgetSetUsed s) (s.arg.r0.toNat / 256)
    + preShare (seqEnables Config.seqBits s.arg.r0.toNat) s.arg.r3.toNat

theorem budgetSetUsed_eq (s : State) : budgetSetUsed s =
    1320 + 960 + (if s.arg.r0.toNat / 2 ^ 4 % 2 = 1 then s.arg.r1.toNat + 590 else 0)
      + (if s.arg.r0.toNat / 2 ^ 2 % 2 = 1 then 2 * (s.arg.r1.toNat + 690)
         else if s.arg.r0.toNat / 2 ^ 3 % 2 = 1 then s.arg.r1.toNat + 660 else 0)
      + (if s.arg.r0.toNat / 2 ^ 6 % 2 = 1 then s.arg.r2.toNat + 660 else 0) + 550 := by
  simp only [budgetSetUsed, budgetUsed, stepCosts_seqEnables, Config.ovhStartSet, Config.ovhEnd, Config.ovhFinal]
  ring

/-- R215's failures in their order, on the operands' values. -/
theorem budgetSetAlloc_eq {s : State} (hr0 : s.arg.r0.toNat < 2 ^ 16) (hr3 : s.arg.r3.toNat < 2 ^ 16) :
    budgetSetAlloc Config.seqBits s =
      if s.arg.r4.toNat < 20000 then .error .validation
      else if ¬ s.arg.r0.toNat / 2 ^ 7 % 2 = 1 then .ok .noFinal
      else if s.arg.r4.toNat < budgetSetUsed s then .error .validation
      else if s.arg.r0.toNat / 256 = 0 then .error .div0
      else if 0xFFFF < budgetSetMclks s then .error .range
      else .ok (.final (encTo (budgetSetMclks s)) (budgetSetMclks s) (s.arg.r4.toNat - budgetSetUsed s)) := by
  have hpclks : field s.arg.r0 8 8 = s.arg.r0.toNat / 256 := by
    rw [field]
    omega
  have hoff : (!(seqEnables Config.seqBits s.arg.r0.toNat).final) = true ↔ ¬ s.arg.r0.toNat / 2 ^ 7 % 2 = 1 := by
    simp [final_seqEnables]
  simp only [budgetSetAlloc, budgetAlloc, seqEnables_field, hpclks, field_zero_of_lt hr3, hoff, mp_eq_zero_iff]
  rfl

/-- BUDGET_SET's checks and lines, on the operands' values (R226). -/
theorem budgetSetLines_eq (s : State) : budgetSetLines Config.seqBits s =
    if 0x10000 ≤ s.arg.r0.toNat ∨ 0x10000 ≤ s.arg.r3.toNat then .error .range
    else if s.arg.r4.toNat < 20000 then .error .validation
    else if ¬ s.arg.r0.toNat / 2 ^ 7 % 2 = 1 then .ok [.res 3 0]
    else if s.arg.r4.toNat < budgetSetUsed s then .error .validation
    else if s.arg.r0.toNat / 256 = 0 then .error .div0
    else if 0xFFFF < budgetSetMclks s then .error .range
    else .ok [.res 0 (word (encTo (budgetSetMclks s))), .res 1 (word (budgetSetMclks s)),
      .res 2 (word (s.arg.r4.toNat - budgetSetUsed s)), .res 3 1, .budget s.arg.r4] := by
  have hwide : (!fits s.arg.r0 16 || !fits s.arg.r3 16) = true ↔ 0x10000 ≤ s.arg.r0.toNat ∨ 0x10000 ≤ s.arg.r3.toNat := by
    simp [fits]
  simp only [budgetSetLines, hwide]
  refine ite_congr rfl (fun _ => rfl) fun hfits => ?_
  obtain ⟨hr0, hr3⟩ := not_or.1 hfits
  rw [budgetSetAlloc_eq (not_le.1 hr0) (not_le.1 hr3)]
  split_ifs <;> rfl

/-- Settles O47: the pseudocode's branches are the statement's, each with its lines. -/
theorem budgetSetAllotsTheFinalRange : Obligations.BudgetSetAllotsTheFinalRange := by
  refine ⟨encodedAs_of_wf rfl rfl, fun s cmd he => ?_⟩
  intro on msrc pclks q used budget us mclks
  have hused : budgetSetUsed s = used := budgetSetUsed_eq s
  have hmclks : budgetSetMclks s = mclks := by
    rw [budgetSetMclks, hused, preShare_seqEnables]
    rfl
  have hlines := budgetSetLines_eq s
  rw [hused, hmclks] at hlines
  exact raises_or_of_check rfl he hlines fun _ hl => raises_or_of_check rfl he hl fun _ hl =>
    ite_of_branch hl (fun _ hl => ⟨exec_computing_cons rfl he hl, execTimes_computing_cons rfl he hl⟩) fun _ hl =>
    raises_or_of_check rfl he hl fun _ hl => raises_or_of_check rfl he hl fun _ hl => raises_or_of_check rfl he hl fun _ hl =>
    writesAllotment_of_computing rfl he hl

end Sys2Proof.Machine
end

section
/-! PROOFS. How a command ends: every turn goes on, and the one that takes the engine to idle is a completion or the TRANSPORT error
(spec/60_exceptions.md R250, R253, R258). -/

namespace Sys2Proof.Machine

open Sys2Proof

/-! ## The deeds that end a command -/

theorem setPos_engine_ne_idle {s : State} {cmd : Word} {pos : Pos} (p : Pos) (he : s.engine = .running cmd pos) :
    (setPos p s).engine ≠ .idle := by
  simp [setPos_of_running p he]

/-- TRANSPORT is raised by the port alone: no command's last line is followed by it. -/
theorem finish_transport_notMem_afters (i : Instr) : After.finish .transport ∉ i.afters := by
  cases i <;> simp [Instr.afters]

/-- An allowed deed that ends its command is a bare completion, and not as TRANSPORT. -/
theorem Deed.run_eq_complete_of_idle {i : Instr} {s : State} {cmd : Word} {pos : Pos} {d : Deed}
    (he : s.engine = .running cmd pos) (hallowed : d.Allowed i s) (hidle : (d.run s).engine = .idle) :
    ∃ e, e ≠ .transport ∧ d.run s = complete e s := by
  cases d with
  | stay => exact absurd (he.symm.trans hidle) (by simp)
  | issue r => exact absurd hidle (setPos_engine_ne_idle (s := { s with bus := .pending r .none }) .await he)
  | raise e => exact ⟨e, hallowed, rfl⟩
  | emit ws k =>
    cases ws with
    | nil =>
      cases k with
      | finish e =>
        obtain ⟨hk, -, -⟩ := hallowed
        exact ⟨e, fun h => finish_transport_notMem_afters i (h ▸ hk), rfl⟩
      | loop => exact absurd hidle (setPos_engine_ne_idle _ he)
    | cons l ws =>
      have hl : (l.apply s).engine = .running cmd pos := (Line.apply_engine l s).trans he
      rw [Deed.run, emit_cons] at hidle
      exact absurd hidle (setPos_engine_ne_idle _ hl)

/-- The turn that ends a command, where the engine's invariant holds: the port reports a failure, or the command completes. -/
theorem exec_idle_cases {i : Instr} {s t : State} {cmd : Word} {pos : Pos} (hinv : EngineInv s)
    (he : s.engine = .running cmd pos) (hd : decode cmd = .ok i) (hx : exec i s = .next t) (hidle : t.engine = .idle) :
    (∃ r, s.bus = .answered r .fail ∧ t = raiseTransport r { s with bus := .idle }) ∨
    ∃ e, e ≠ .transport ∧ t = complete e { s with bus := .idle } := by
  obtain rfl | hfail | ⟨d, -, hallowed, rfl⟩ := exec_allowedTurn hinv he hd hx
  · exact absurd (he.symm.trans hidle) (by simp)
  · exact .inl hfail
  · exact .inr (Deed.run_eq_complete_of_idle (s := { s with bus := .idle }) he (Deed.allowed_with_bus.2 hallowed) hidle)

theorem writesBank_eq_false {r : Request} (h : ∀ dev n v, r ≠ .write dev 0xFF#8 n v) : r.writesBank = false := by
  cases r with
  | read dev reg n => rfl
  | write dev reg n v => exact beq_false_of_ne fun hreg => h dev n v (hreg ▸ rfl)

/-! ## The statements -/

/-- Settles O9: by `exec_idle_cases` the turn is `complete` or `raiseTransport`, and each says what it writes. -/
theorem endingATurnWritesOnlyStatus : Obligations.EndingATurnWritesOnlyStatus := by
  intro i s t cmd pos hinv he hd hx hidle
  obtain ⟨r, hb, rfl⟩ | ⟨e, hne, rfl⟩ := exec_idle_cases hinv he hd hx hidle
  · refine ⟨.transport, rfl, fun h => absurd rfl h, fun _ => ⟨rfl, r, hb, ?bankWrite, ?otherwise⟩⟩
    case bankWrite =>
      rintro ⟨dev, n, v, rfl⟩
      simp [Request.writesBank]
    case otherwise =>
      intro hr
      simp [writesBank_eq_false hr]
  · exact ⟨e, rfl, fun _ => ⟨rfl, rfl⟩, fun h => absurd h hne⟩

/-- Settles O7: of the outcomes of `exec_cases` each is a next state. -/
theorem everyCommandTurnGoesOn : Obligations.EveryCommandTurnGoesOn := by
  intro i s
  obtain ⟨t, ht, -⟩ := exec_cases i s
  exact ⟨t, ht⟩

/-- Settles O33: every command leaves a failed answer to the shared waiting turn, which raises TRANSPORT with R253's effects. -/
theorem aFailedRequestRaisesTransport : Obligations.AFailedRequestRaisesTransport :=
  fun i _ _ _ he hb => raisesTransport_of_answered_fail i he hb

end Sys2Proof.Machine
end

section
/-! PROOFS. What block reset leaves of the sensor (spec/70_reset_and_hazards.md R282, R283, spec/20_memory.md R60, R63, R65, R70). -/

namespace Sys2Proof.Machine

open Sys2Proof

/-! ## States whose sensors agree -/

/-- What a WRITE left of the sensor is a matter of the sensor alone, whatever became of the block. -/
theorem TakesBytes.of_sensorUntouched {took : Nat → Bool} {reg : Byte} {n : Width} {v : Word} {s t u : State}
    (htaken : TakesBytes took reg n v s u) (h : SensorUntouched u t) : TakesBytes took reg n v s t := by
  obtain ⟨hsensor, hbank, haddr⟩ := h
  simpa only [TakesBytes, hsensor, hbank, haddr] using htaken

/-- With no WRITE in flight reset leaves the sensor alone: no other request is served. -/
theorem resetBlock_sensorUntouched {s : State} (took : BitVec 4) (k : Tick)
    (h : ∀ dev reg n v p, s.bus ≠ .pending (.write dev reg n v) p) : SensorUntouched s (resetBlock took k s) := by
  obtain ⟨-, hkept⟩ | ⟨r, p, hb, hserved⟩ := resetBlock_sensor took k s
  · exact hkept
  · cases r with
    | read dev reg n => exact hserved
    | write dev reg n v => exact absurd hb (h dev reg n v p)

/-- A request in flight is served with the drawn mask. -/
theorem resetBlock_serves {s : State} {r : Request} {p : Transfer} (took : BitVec 4) (k : Tick) (hb : s.bus = .pending r p) :
    SensorUntouched (sensorServes took r p s) (resetBlock took k s) := by
  obtain ⟨hno, -⟩ | ⟨r', p', hb', hserved⟩ := resetBlock_sensor took k s
  · exact absurd hb (hno r p)
  · obtain ⟨rfl, rfl⟩ : r = r' ∧ p = p' := by simpa using hb.symm.trans hb'
    exact hserved

/-- With mask 0 reset leaves the sensor alone, whatever is in flight. -/
theorem resetBlock_zero_sensorUntouched (k : Tick) (s : State) : SensorUntouched s (resetBlock 0 k s) := by
  obtain ⟨-, hkept⟩ | ⟨r, p, -, hserved⟩ := resetBlock_sensor 0 k s
  · exact hkept
  · rw [sensorServes_zero] at hserved
    exact hserved

/-- A reset event's step is block reset, and drawing the next event does not touch the sensor. -/
theorem step_reset {s : State} {took : BitVec 4} {k : Tick} (hnext : s.next = .reset took k) :
    step s = .next (drawNext (resetBlock took k s)) := by
  rw [step, hnext, perform, thenDraw]

/-! ## The statement -/

/-- Settles O24: a WRITE in flight is served with the drawn mask, and nothing else of a reset reaches the sensor. -/
theorem resetTouchesTheSensorOnlyByAWriteInFlight : Obligations.ResetTouchesTheSensorOnlyByAWriteInFlight := by
  intro s t took k hnext hstep
  obtain rfl : drawNext (resetBlock took k s) = t := Host.Outcome.next.inj ((step_reset hnext).symm.trans hstep)
  refine ⟨resetBlock_sensorUntouched took k, ?maskZero, fun dev reg n v p hb => ?writeInFlight⟩
  case maskZero =>
    rintro rfl
    exact resetBlock_zero_sensorUntouched k s
  case writeInFlight =>
    have hserved : SensorUntouched (sensorServes took (.write dev reg n v) p s) (drawNext (resetBlock took k s)) :=
      resetBlock_serves took k hb
    refine ⟨hserved, fun hdev => ?elsewhere, fun hdev hwf => ?here, ?asAfterOk⟩
    case elsewhere => rwa [sensorServes_elsewhere took reg n v p hdev] at hserved
    case here => exact (takesBytes_sensorServes reg n v hwf hdev fun _ _ => rfl).of_sensorUntouched hserved
    case asAfterOk =>
      rintro rfl free
      rw [transportAnswers_ok_write free hb]
      exact hserved

end Sys2Proof.Machine
end
